-- ==== Sys2Proof/Word.lean ====
section
/-! DEFINITION. The word and byte types of the core (00_scope.md R9): words are 32 bits, bytes are 8 bits,
bits are numbered from 0 at the least significant end, and every value is unsigned. -/

namespace Sys2Proof

/-- A 32-bit word (R9). Addition on it wraps modulo 2^32 (R10), as `BitVec` addition does. -/
abbrev Word := BitVec 32

/-- An 8-bit byte (R9). -/
abbrev Byte := BitVec 8

end Sys2Proof
end

