-- ==== Sys2Proof/Config.lean ====
section
/-! DEFINITION. The implementation parameters of 00_scope.md R8: what is fixed for one instance of the core.
`LAT` and `TGEN_LAT` are open and have no number here: how many host accesses happen before a completion or before the
tables are ready is read from the list of port events in the state (log entry 1). `MC_PROCEDURE` and `MC_EXPECTED` are test data
only (R7, R8). -/

namespace Sys2Proof.Config

/-- Which 256-byte page of the platform's address space holds the register window. OPEN in the spec (R8, R72, decision D3):
a constant without a body, so that nothing proved can depend on its value. -/
opaque basePage : Nat

/-- `BASE`, the byte address of the register window: a multiple of 0x100 (R72) by the way it is formed. -/
def base : Nat := 0x100 * basePage

/-- The size in bytes of the register window (R8, R72). -/
def windowBytes : Nat := 0x100

/-- The value of the ID register: the ASCII bytes of AESC, packed big-endian (R27). -/
def idValue : Word := 0x41455343

/-- `SHA_MAX_BYTES`, the largest byte count whose bit length fits in 64 bits (R8, R208). -/
def shaMaxBytes : Nat := 2 ^ 61 - 1

/-- `RK_WORDS`, the capacity of each round-key store (R8, R33; conflict C2). -/
abbrev rkWords : Nat := 60

end Sys2Proof.Config
end

