-- ==== Sys2Proof/Machine/State.lean ====
section
/-! DEFINITION. The state of the core (10_state.md R20), as plain data, and its value after reset (70_reset_and_hazards.md
R300). The last two fields, `inputs` and `response`, are the model's own: they hold what the host does at the port and what
the port answered (log entries 1 and 5). -/

namespace Sys2Proof.Machine

/-- An error code of STATUS.ERR (60_exceptions.md R261). Codes 7 to 15 are never written, so they have no constructor. -/
inductive ErrCode where
  | none
  | invalidKeyLength
  | uninitializedContext
  | bufferLengthMismatch
  | counterOverflow
  | illegalCommand
  | argumentRange
  deriving DecidableEq, Repr

/-- The states of the SHA-256 context (10_state.md R38). -/
inductive ShaState where
  | unstarted
  | idle
  | accum
  | final
  deriving DecidableEq, Repr

/-- The values of `nr`, the AES round count: 0, 10, 12 and 14 (10_state.md R33); `unkeyed` is 0, no valid key. -/
inductive Rounds where
  | unkeyed
  | r10
  | r12
  | r14
  deriving DecidableEq, Repr

/-- A 16-byte AES block as its four big-endian words (10_state.md R29, R30). -/
abbrev Block := Vector Word 4

/-- A round-key store of 60 words (10_state.md R33). -/
abbrev RkStore := Vector Word Config.rkWords

/-- The stored registers of the host register file (10_state.md R22). CMD stores nothing (R23), STATUS is put together from
the flags and the contexts (R24), and ID is a constant (R27). -/
structure HostRegs where
  /-- CTRL.IE, bit 0 of CTRL; the other bits read 0 (R26). -/
  ie : Bool
  /-- KEY[0..7] (R28). -/
  key : Vector Word 8
  /-- DIN[0..3] (R29). -/
  din : Block
  /-- DOUT[0..3] (R30). -/
  dout : Block
  /-- MSG[0..15] (R31). -/
  msg : Vector Word 16
  /-- DIGEST[0..7] (R32). -/
  digest : Vector Word 8
  /-- RDATA (R35). -/
  rdata : Word
  deriving DecidableEq, Repr

/-- The fields of STATUS that are stored for their own sake (10_state.md R24). BUSY is the sequencer's, TBL_READY the table
generator's, and the others are live views of the contexts. -/
structure StatusFlags where
  done : Bool
  overrun : Bool
  err : ErrCode
  deriving DecidableEq, Repr

/-- The AES context (10_state.md R33). -/
structure AesContext where
  nr : Rounds
  erk : RkStore
  drk : RkStore
  deriving DecidableEq, Repr

/-- The SHA-256 context (10_state.md R37). `total` is the 64-bit byte count; its halves `total_lo` and `total_hi` are views
of it (Machine/Flags.lean). -/
structure ShaContext where
  h : Vector Word 8
  total : BitVec 64
  buf : Vector Byte 64
  count : BitVec 6
  state : ShaState
  deriving DecidableEq, Repr

/-- The operand snapshot taken at acceptance: 28 words (10_state.md R39). -/
structure Snapshot where
  key : Vector Word 8
  din : Block
  msg : Vector Word 16
  deriving DecidableEq, Repr

/-- What a bus access asks for (20_memory.md R70). -/
inductive BusOp where
  | read
  | write (v : Word)
  deriving DecidableEq, Repr

/-- One access at the core's slave port: the byte offset `addr - BASE`, which is all the core decodes (20_memory.md R72), and
the width in bytes. Accesses of every width and alignment can arrive; only aligned 4-byte ones are served (R70, R71). -/
structure BusAccess where
  op : BusOp
  off : BitVec 8
  width : Nat
  deriving DecidableEq, Repr

/-- One slot of the total order of port events and internal steps (20_memory.md R79). -/
inductive PortEvent where
  /-- No host event in this slot: the core takes its enabled internal step, if it has one. -/
  | idle
  /-- The reset input is asserted (R300). -/
  | reset
  /-- The host performs one access. -/
  | access (a : BusAccess)
  deriving DecidableEq, Repr

/-- What the port answers to an access: the word read, the end of a write, or the bus error response of R71. -/
inductive BusResponse where
  | data (v : Word)
  | ack
  | busError
  deriving DecidableEq, Repr

/-- The machine state. -/
structure State where
  /-- The host register file (10_state.md section 2). -/
  regs : HostRegs
  /-- The stored STATUS fields (R24). -/
  status : StatusFlags
  /-- `tbl_ready`: the only state of the table generator, whose tables are constants (R36). -/
  tblReady : Bool
  /-- The AES context (R33). -/
  aes : AesContext
  /-- The SHA-256 context (R37). -/
  sha : ShaContext
  /-- `busy` of the sequencer, STATUS.BUSY (R39). -/
  busy : Bool
  /-- `pending`: the accepted command word, meaningful while busy (R39). -/
  pending : Word
  /-- `snap`: the operand snapshot, meaningful while busy (R39). -/
  snap : Snapshot
  /-- The model's own: the host's events still to come, the next one first. -/
  inputs : List PortEvent
  /-- The model's own: the port's answer to the last access, none before the first. -/
  response : Option BusResponse
  deriving DecidableEq, Repr

/-- Why a step may stop with a fault. It has no constructor: the core raises no trap (60_exceptions.md R260) and nothing in
it is a panic or an unrecoverable state (R266), a refused bus access is answered with an error response and changes nothing
(20_memory.md R71), and an access outside the window does not reach the core (R72). Nobody raises a fault, which is safe. -/
inductive Fault where
  deriving DecidableEq, Repr

/-- Why a step may be refused. -/
inductive Refusal where
  /-- Raised by an arm of `exec` whose command has no meaning yet; no arm is left so. Safe: the machine stops. -/
  | notModelled (mnemonic : String)
  deriving DecidableEq, Repr

/-- The register file after reset: all registers 0 (R22, R300). -/
def HostRegs.reset : HostRegs :=
  { ie := false
    key := Vector.replicate 8 0
    din := Vector.replicate 4 0
    dout := Vector.replicate 4 0
    msg := Vector.replicate 16 0
    digest := Vector.replicate 8 0
    rdata := 0 }

/-- The STATUS flags after reset: all 0 (R24, R300). -/
def StatusFlags.reset : StatusFlags := { done := false, overrun := false, err := .none }

/-- The AES context after reset (R33, R300). -/
def AesContext.reset : AesContext := { nr := .unkeyed, erk := Vector.replicate 60 0, drk := Vector.replicate 60 0 }

/-- The SHA-256 context after reset (R37, R300). The spec leaves the bytes of `buf` unspecified: DESIGN CHOICE 0, log entry
7. -/
def ShaContext.reset : ShaContext :=
  { h := Vector.replicate 8 0, total := 0, buf := Vector.replicate 64 0, count := 0, state := .unstarted }

/-- The snapshot after reset. The spec gives it no value, since it means nothing while busy is 0: DESIGN CHOICE 0, log entry
6. -/
def Snapshot.reset : Snapshot :=
  { key := Vector.replicate 8 0, din := Vector.replicate 4 0, msg := Vector.replicate 16 0 }

/-- The machine right after reset (R300), with no host event to come. `pending` has no reset value in the spec: DESIGN CHOICE
0, log entry 6. -/
def State.reset : State :=
  { regs := .reset
    status := .reset
    tblReady := false
    aes := .reset
    sha := .reset
    busy := false
    pending := 0
    snap := .reset
    inputs := []
    response := none }

end Sys2Proof.Machine
end

