-- ==== Sys2Proof/Machine/Flags.lean ====
section
/-! DEFINITION. The status the core reports: the STATUS and CTRL words, the error codes, the live views of the contexts and the
interrupt output. The core has no arithmetic flags (10_state.md R42). -/

namespace Sys2Proof.Machine

/-- The code written to STATUS.ERR (60_exceptions.md R261). -/
def ErrCode.code : ErrCode → BitVec 4
  | .none => 0
  | .invalidKeyLength => 1
  | .uninitializedContext => 2
  | .bufferLengthMismatch => 3
  | .counterOverflow => 4
  | .illegalCommand => 5
  | .argumentRange => 6

/-- The code of a SHA-256 context state (10_state.md R38). -/
def ShaState.code : ShaState → BitVec 2
  | .unstarted => 0
  | .idle => 1
  | .accum => 2
  | .final => 3

/-- The round count `nr` as a number (10_state.md R33). -/
def Rounds.num : Rounds → Nat
  | .unkeyed => 0
  | .r10 => 10
  | .r12 => 12
  | .r14 => 14

/-- `nr` as the 4 bits of STATUS.NR (10_state.md R24, R33). -/
def Rounds.code (n : Rounds) : BitVec 4 := BitVec.ofNat 4 n.num

/-- STATUS.AES_KEYED: 1 exactly when `nr` is not 0 (10_state.md R24). -/
def AesContext.keyed (a : AesContext) : Bool := a.nr ≠ .unkeyed

/-- SHA_UPDATE and SHA_FINISH find a started context: neither UNSTARTED nor FINAL (42_sha256.md R207, R210). -/
def ShaContext.started (c : ShaContext) : Bool := c.state = .idle || c.state = .accum

/-- `total_lo`, the low word of the byte count (10_state.md R37). -/
def ShaContext.totalLo (c : ShaContext) : Word := c.total.extractLsb' 0 32

/-- `total_hi`, the high word of the byte count (10_state.md R37). -/
def ShaContext.totalHi (c : ShaContext) : Word := c.total.extractLsb' 32 32

/-- The word a read of STATUS gives (10_state.md R24), written from bit 31 down: reserved 31:22, SHA_COUNT 21:16, NR 15:12,
SHA_STATE 11:10, AES_KEYED 9, TBL_READY 8, ERR 7:4, reserved 3, OVERRUN 2, DONE 1, BUSY 0. -/
def State.statusWord (s : State) : Word :=
  0#10 ++ s.sha.count ++ s.aes.nr.code ++ s.sha.state.code ++ BitVec.ofBool s.aes.keyed ++ BitVec.ofBool s.tblReady
    ++ s.status.err.code ++ 0#1 ++ BitVec.ofBool s.status.overrun ++ BitVec.ofBool s.status.done ++ BitVec.ofBool s.busy

/-- The word a read of CTRL gives: IE in bit 0, the rest 0 (10_state.md R26). -/
def State.ctrlWord (s : State) : Word := 0#31 ++ BitVec.ofBool s.regs.ie

/-- The interrupt output, a level (60_exceptions.md R267). -/
def State.irq (s : State) : Bool := s.regs.ie && s.status.done

end Sys2Proof.Machine
end

