-- ==== Sys2Proof/Machine/Bits.lean ====
section
/-! DEFINITION. The operators of the spec's notation on words and bytes (00_scope.md R10, R11), and reading a fixed-size store
by a number. -/

namespace Sys2Proof.Machine

/-- Rotation right of a word, for 0 ≤ n < 32 (R10). -/
def rotr32 (w : Word) (n : Nat) : Word := (w >>> n) ||| (w <<< (32 - n))

/-- Rotation left of a word (R10). -/
def rotl32 (w : Word) (n : Nat) : Word := rotr32 w ((32 - n) % 32)

/-- Rotation left of a byte, for 0 < n < 8 (R10). -/
def rotl8 (b : Byte) (n : Nat) : Byte := (b <<< n) ||| (b >>> (8 - n))

/-- Logical shift right (R10). -/
def shr (w : Word) (n : Nat) : Word := w >>> n

/-- `byte(w, k)`, k = 0..3: byte 0 is the most significant (R11). -/
def byteAt (w : Word) (k : Nat) : Byte := w.extractLsb' (24 - 8 * k) 8

/-- `word(b0, b1, b2, b3)`: b0 in bits 31:24 down to b3 in bits 7:0 (R11). -/
def wordOf (b0 b1 b2 b3 : Byte) : Word := b0 ++ b1 ++ b2 ++ b3

/-- Entry `i` of a store of words. No rule forms an index outside the store (20_memory.md R84; log entry 14). -/
def wordAt {n : Nat} (v : Vector Word n) (i : Nat) : Word := v[i]?.getD 0

/-- Byte `b` of a byte string held big-endian in a store of words (R11, 20_memory.md R75). -/
def packedByte {n : Nat} (v : Vector Word n) (b : Nat) : Byte := byteAt (wordAt v (b / 4)) (b % 4)

/-- The number `n` as `k` bytes, most significant first. -/
def beBytes (k n : Nat) : List Byte := (List.range k).map fun i => BitVec.ofNat 8 (n / 2 ^ (8 * (k - 1 - i)))

end Sys2Proof.Machine
end

