-- ==== Sys2Proof/Machine/Operands.lean ====
section
/-! DEFINITION. The operands of a command. The scalar operands FA and FB come with the command itself, unscaled and
zero-extended (30_encoding.md R92); the byte-array operands are read from the snapshot taken at acceptance, big-endian (R92). -/

namespace Sys2Proof.Machine

/-- Key byte `b` (30_encoding.md R92, 10_state.md R28). -/
def Snapshot.keyByte (sn : Snapshot) (b : Nat) : Byte := packedByte sn.key b

/-- Block byte `b` (30_encoding.md R92, 10_state.md R29). -/
def Snapshot.blockByte (sn : Snapshot) (b : Nat) : Byte := packedByte sn.din b

/-- Message byte `b` (30_encoding.md R92, 10_state.md R31). -/
def Snapshot.msgByte (sn : Snapshot) (b : Nat) : Byte := packedByte sn.msg b

/-- Key word `i`: key bytes 4i to 4i+3, big-endian, which is KEY[i] itself (41_aes.md R155). -/
def Snapshot.keyWord (sn : Snapshot) (i : Nat) : Word := wordAt sn.key i

/-- The first `len` message bytes, `d[0 .. len)` of 42_sha256.md R207. -/
def Snapshot.message (sn : Snapshot) (len : Nat) : List Byte := (List.range len).map sn.msgByte

/-- The snapshot that acceptance takes of the operand registers (43_control.md R241). -/
def HostRegs.snapshot (r : HostRegs) : Snapshot := { key := r.key, din := r.din, msg := r.msg }

end Sys2Proof.Machine
end

