-- ==== Sys2Proof/Machine/Ops.lean ====
section
/-! DEFINITION. The named operations on the state that the commands, the port and the sequencer share. -/

namespace Sys2Proof.Machine

/-- The answer every meaning and step gives. -/
abbrev Result := Host.Outcome State Fault Refusal

/-- The end of the complete step (43_control.md R243): ERR is written, DONE rises and BUSY falls, together. -/
def State.finish (s : State) (e : ErrCode) : State :=
  { s with status := { s.status with err := e, done := true }, busy := false }

/-- A command completes with success: ERR is 0 (R243). -/
def succeed (s : State) : Result := .next (s.finish .none)

/-- `raise e` (00_scope.md R12, 60_exceptions.md R262, R269): the command ends at once with the code of `e` in STATUS.ERR. It
saves no state, switches no mode and transfers no control. There is no return from it beside `State.accept`, which clears ERR
and DONE (R270). -/
def raise (e : ErrCode) (s : State) : Result := .next (s.finish e)

/-- RDATA is written (10_state.md R35). -/
def State.setRdata (s : State) (w : Word) : State := { s with regs := { s.regs with rdata := w } }

/-- DOUT is written (10_state.md R30). -/
def State.setDout (s : State) (b : Block) : State := { s with regs := { s.regs with dout := b } }

/-- DIGEST is written (10_state.md R32). -/
def State.setDigest (s : State) (d : Vector Word 8) : State := { s with regs := { s.regs with digest := d } }

/-- The AES context is written (10_state.md R33). -/
def State.setAes (s : State) (a : AesContext) : State := { s with aes := a }

/-- The SHA-256 context is written (10_state.md R37). -/
def State.setSha (s : State) (c : ShaContext) : State := { s with sha := c }

/-- Acceptance of the command word `c` (43_control.md R241): the word and the operand registers are taken, BUSY rises, DONE and
ERR fall. It does not decode `c` and does not look at `tblReady`. DEDUCED (log entry 21): ERR is cleared here, as R241, 10_state.md
R24 and 70_reset_and_hazards.md R309 say, although R306 and 93_implementation_defined.md I14 let a read before completion return
the previous ERR. -/
def State.accept (s : State) (c : Word) : State :=
  { s with
    pending := c
    snap := s.regs.snapshot
    busy := true
    status := { s.status with done := false, err := .none } }

/-- A CMD write while BUSY is 1 is dropped and sets OVERRUN (43_control.md R242). -/
def State.overrun (s : State) : State := { s with status := { s.status with overrun := true } }

/-- A host write of `c` to CMD (10_state.md R23, 43_control.md R241, R242). -/
def State.offer (s : State) (c : Word) : State := if s.busy then s.overrun else s.accept c

/-- A host write of `v` to STATUS: a 1 in bit 1 clears DONE, a 1 in bit 2 clears OVERRUN (10_state.md R25). -/
def State.clearStatus (s : State) (v : Word) : State :=
  { s with
    status :=
      { s.status with
        done := s.status.done && !v.getLsbD 1
        overrun := s.status.overrun && !v.getLsbD 2 } }

/-- A host write of `v` to CTRL: bit 0 is IE, the other bits are ignored (10_state.md R26). -/
def State.setCtrl (s : State) (v : Word) : State := { s with regs := { s.regs with ie := v.getLsbD 0 } }

/-- KEY[k] is written (10_state.md R28). -/
def State.setKey (s : State) (k : Nat) (v : Word) : State :=
  { s with regs := { s.regs with key := s.regs.key.setIfInBounds k v } }

/-- DIN[k] is written (10_state.md R29). -/
def State.setDin (s : State) (k : Nat) (v : Word) : State :=
  { s with regs := { s.regs with din := s.regs.din.setIfInBounds k v } }

/-- MSG[k] is written (10_state.md R31). -/
def State.setMsg (s : State) (k : Nat) (v : Word) : State :=
  { s with regs := { s.regs with msg := s.regs.msg.setIfInBounds k v } }

/-- The port answers the access (log entry 5). -/
def State.respond (s : State) (r : BusResponse) : State := { s with response := some r }

/-- The host's events still to come are `es`. -/
def State.withInputs (s : State) (es : List PortEvent) : State := { s with inputs := es }

/-- The table generator's one step, *tables ready* (40_gf_tables.md R124, 43_control.md R240): the tables themselves are
constants (R36). -/
def State.tablesReady (s : State) : State := { s with tblReady := true }

/-- Reset asserted (70_reset_and_hazards.md R300, R302): every piece of the core's state takes its reset value, a pending
command is abandoned, and the host goes on with its later events `es`. -/
def State.resetTo (es : List PortEvent) : State := State.reset.withInputs es

end Sys2Proof.Machine
end

