-- ==== Sys2Proof/Machine/Bus.lean ====
section
/-! DEFINITION. The slave port: the register window and what a host access does (20_memory.md, 10_state.md section 2). -/

namespace Sys2Proof.Machine

/-- The word a read of the register at offset `off`, a multiple of 4 below 0x100, gives (10_state.md R22). CMD and the reserved
offsets read 0 (20_memory.md R73, R74). -/
def readReg (s : State) (off : Nat) : Word :=
  if off = 0x00 then 0
  else if off = 0x04 then s.statusWord
  else if off = 0x08 then s.ctrlWord
  else if off = 0x0C then Config.idValue
  else if off < 0x30 then wordAt s.regs.key ((off - 0x10) / 4)
  else if off < 0x40 then wordAt s.regs.din ((off - 0x30) / 4)
  else if off < 0x50 then wordAt s.regs.dout ((off - 0x40) / 4)
  else if off < 0x90 then wordAt s.regs.msg ((off - 0x50) / 4)
  else if off < 0xB0 then wordAt s.regs.digest ((off - 0x90) / 4)
  else if off = 0xB0 then s.regs.rdata
  else 0

/-- What a write of `v` to the register at offset `off`, a multiple of 4 below 0x100, does (10_state.md R22 to R31). Writes to
ID, DOUT, DIGEST, RDATA and the reserved offsets are ignored (20_memory.md R73, R74). -/
def writeReg (s : State) (off : Nat) (v : Word) : State :=
  if off = 0x00 then s.offer v
  else if off = 0x04 then s.clearStatus v
  else if off = 0x08 then s.setCtrl v
  else if off < 0x10 then s
  else if off < 0x30 then s.setKey ((off - 0x10) / 4) v
  else if off < 0x40 then s.setDin ((off - 0x30) / 4) v
  else if off < 0x50 then s
  else if off < 0x90 then s.setMsg ((off - 0x50) / 4) v
  else s

/-- The port serves the access: it is 4 bytes wide and its address is a multiple of 4 (20_memory.md R70, R71). `BASE` is a
multiple of 0x100 (R72), so the address is a multiple of 4 exactly when the offset is. -/
def BusAccess.served (a : BusAccess) : Bool := a.width = 4 && a.off.toNat % 4 = 0

/-- What one host access does (20_memory.md R70 to R74): an access that is not served gets the bus error response and changes
nothing of the core (R71); a read has no side effect (R74). -/
def State.access (s : State) (a : BusAccess) : State :=
  if a.served then
    match a.op with
    | .read => s.respond (.data (readReg s a.off.toNat))
    | .write v => (writeReg s a.off.toNat v).respond .ack
  else s.respond .busError

/-- The address decode between the platform and the port (20_memory.md R72): a platform access at byte address `addr` reaches
the port as an access at `addr - BASE` when that is in the window, and does not reach the core otherwise. -/
def portEvent? (op : BusOp) (addr width : Nat) : Option PortEvent :=
  if Config.base ≤ addr ∧ addr < Config.base + Config.windowBytes then
    some (.access { op := op, off := BitVec.ofNat 8 (addr - Config.base), width := width })
  else none

end Sys2Proof.Machine
end

