-- ==== Sys2Proof/Syntax.lean ====
section
/-! DEFINITION. The commands of the core: one constructor per row of spec/opcode_table.json. A command plays the part an
instruction plays in an ISA (00_scope.md R14). The operands are numbers: the rules compare, divide and index with them and
never look at their bits, and 30_encoding.md R92 takes each field as an unsigned number with no scaling. -/

namespace Sys2Proof

/-- A command (30_encoding.md R91, R93). Reserved fields are 0 and carry nothing (R95). -/
inductive Instr where
  /-- NOP, opcode 0x00 (43_control.md R245). -/
  | nop
  /-- AES_KEYSETUP, opcode 0x10: FA is the key byte count, FB the key bit length (41_aes.md R154). -/
  | aesKeysetup (keybytes bitlen : Nat)
  /-- AES_ENCRYPT, opcode 0x11 (41_aes.md R162). -/
  | aesEncrypt
  /-- AES_DECRYPT, opcode 0x12 (41_aes.md R165). -/
  | aesDecrypt
  /-- AES_RKREAD, opcode 0x13: FA selects the schedule, FB is the word index (41_aes.md R171). -/
  | aesRkread (sched index : Nat)
  /-- SHA_START, opcode 0x20 (42_sha256.md R206). -/
  | shaStart
  /-- SHA_UPDATE, opcode 0x21: FA is the byte count (42_sha256.md R207). -/
  | shaUpdate (len : Nat)
  /-- SHA_FINISH, opcode 0x22 (42_sha256.md R210). -/
  | shaFinish
  /-- TBL_READ, opcode 0x30: FA is the table id, FB the entry index (40_gf_tables.md R125). -/
  | tblRead (table index : Nat)
  deriving DecidableEq, Repr

end Sys2Proof
end

