-- ==== Sys2Proof/WellFormed.lean ====
section
/-! DEFINITION. Which commands the command word can carry: each operand fits its field (30_encoding.md R90: FA has 8 bits, FB
has 16). Nothing else is asked: out-of-range values of a field are encodable and are operand errors of the command's own rule
(R95). -/

namespace Sys2Proof

/-- The number fits field A, bits 15:8 of the command word (R90). -/
def fitsFA (n : Nat) : Bool := n < 2 ^ 8

/-- The number fits field B, bits 31:16 of the command word (R90). -/
def fitsFB (n : Nat) : Bool := n < 2 ^ 16

/-- Every operand of the command fits the field that carries it (R90, R91). -/
def wellFormed : Instr → Bool
  | .nop => true
  | .aesKeysetup keybytes bitlen => fitsFA keybytes && fitsFB bitlen
  | .aesEncrypt => true
  | .aesDecrypt => true
  | .aesRkread sched index => fitsFA sched && fitsFB index
  | .shaStart => true
  | .shaUpdate len => fitsFA len
  | .shaFinish => true
  | .tblRead table index => fitsFA table && fitsFB index

end Sys2Proof
end

