-- ==== Sys2Proof/Decode.lean ====
section
/-! DEFINITION. Decoding and encoding the 32-bit command word (30_encoding.md R90 to R100). -/

namespace Sys2Proof

/-- Why a command word is illegal. Both end the command with IllegalCommand and no other effect (R94, R95). -/
inductive DecodeError where
  /-- The opcode is reserved (R93, R94). -/
  | reservedOpcode
  /-- The opcode is defined, and a field that must be 0 is not (R95). -/
  | reservedField
  deriving DecidableEq, Repr

/-- OP, bits 7:0 of the command word (R90). -/
def fieldOp (c : Word) : Nat := (c.extractLsb' 0 8).toNat

/-- FA, bits 15:8 of the command word (R90). -/
def fieldA (c : Word) : Nat := (c.extractLsb' 8 8).toNat

/-- FB, bits 31:16 of the command word (R90). -/
def fieldB (c : Word) : Nat := (c.extractLsb' 16 16).toNat

/-- A command that takes neither field: both must be 0 (R95). -/
def decodePlain (fa fb : Nat) (i : Instr) : Except DecodeError Instr :=
  if fa = 0 ∧ fb = 0 then .ok i else .error .reservedField

/-- SHA_UPDATE takes field A, and field B must be 0 (R95). -/
def decodeUpdate (fa fb : Nat) : Except DecodeError Instr :=
  if fb = 0 then .ok (.shaUpdate fa) else .error .reservedField

/-- The decoder of R100, total on every 32-bit word. -/
def decode (c : Word) : Except DecodeError Instr :=
  let fa := fieldA c
  let fb := fieldB c
  match fieldOp c with
  | 0x00 => decodePlain fa fb .nop
  | 0x10 => .ok (.aesKeysetup fa fb)
  | 0x11 => decodePlain fa fb .aesEncrypt
  | 0x12 => decodePlain fa fb .aesDecrypt
  | 0x13 => .ok (.aesRkread fa fb)
  | 0x20 => decodePlain fa fb .shaStart
  | 0x21 => decodeUpdate fa fb
  | 0x22 => decodePlain fa fb .shaFinish
  | 0x30 => .ok (.tblRead fa fb)
  | _ => .error .reservedOpcode

/-- The command word with the three fields in their places (R90). DESIGN CHOICE (log entry 22): of a number that does not fit its
field, only the bits that fit go into the word, so that no field reaches into another; the spec does not say what such an operand
encodes as, and the formulas of R97 give the same word for every operand that fits. -/
def commandWord (op fa fb : Nat) : Word := BitVec.ofNat 16 fb ++ BitVec.ofNat 8 fa ++ BitVec.ofNat 8 op

/-- The encoder, from the table of R91 and the syntax table of R97. It is meant for well-formed commands; what it makes of the others
is the model's choice (log entry 22, `commandWord`). -/
def encode : Instr → Word
  | .nop => commandWord 0x00 0 0
  | .aesKeysetup keybytes bitlen => commandWord 0x10 keybytes bitlen
  | .aesEncrypt => commandWord 0x11 0 0
  | .aesDecrypt => commandWord 0x12 0 0
  | .aesRkread sched index => commandWord 0x13 sched index
  | .shaStart => commandWord 0x20 0 0
  | .shaUpdate len => commandWord 0x21 len 0
  | .shaFinish => commandWord 0x22 0 0
  | .tblRead table index => commandWord 0x30 table index

/-- The 32-bit command word whose low `nbits` bits are those of `w` and whose other bits are 0. The core takes the word whole
(R90), so no byte order comes in. -/
def tableWord (nbits w : Nat) : Word := BitVec.ofNat 32 (w % 2 ^ nbits)

/-- The command the decoder reads from an opcode-table word. -/
def decodeTableWord (nbits w : Nat) : Option Instr := (decode (tableWord nbits w)).toOption

end Sys2Proof
end

