-- ==== Sys2Proof/Machine/Gf.lean ====
section
/-! DEFINITION. GF(2^8) arithmetic and the tables of the table generator (40_gf_tables.md).

The four byte tables are held as ROM contents, which R124 and R36 say is the same machine as a generator: sixteen rows of
sixteen entries, entry 0 first, laid out as the rows of 95_test_vectors.md section 8. Beside each stands the construction its
rule gives (`genPow`, `genLog`, `genSbox`, `genInvSbox`), and Laws/Tables.lean proves that each ROM holds exactly what its
construction makes (log entry 10). The 32-bit tables are computed from the byte tables by the formulas of R117 to R122. -/

namespace Sys2Proof.Machine

/-- Multiplication by {02} (R111). -/
def xtime (a : Byte) : Byte := if a.getLsbD 7 then (a <<< 1) ^^^ 0x1B else a <<< 1

/-- The pow table (R113): entry i is the i-th power of the generator {03}. -/
def powRom : BitVec 2048 :=
  0x0103050f113355ff1a2e7296a1f81335#128 ++
  0x5fe13848d87395a4f702060a1e2266aa#128 ++
  0xe5345ce43759eb266abed97090abe631#128 ++
  0x53f5040c143c44cc4fd168b8d36eb2cd#128 ++
  0x4cd467a9e03b4dd762a6f10818287888#128 ++
  0x839eb9d06bbddc7f8198b3ce49db769a#128 ++
  0xb5c457f9103050f00b1d2769bbd661a3#128 ++
  0xfe192b7d8792adec2f7193aee92060a0#128 ++
  0xfb163a4ed26db7c25de73256fa153f41#128 ++
  0xc35ee23d47c940c05bed2c749cbfda75#128 ++
  0x9fbad564acef2a7e829dbcdf7a8e8980#128 ++
  0x9bb6c158e82365afea256fb1c843c554#128 ++
  0xfc1f2163a5f407091b2d7799b0cb46ca#128 ++
  0x45cf4ade798b8691a8e33e42c651f30e#128 ++
  0x12365aee297b8d8c8f8a8594a7f20d17#128 ++
  0x394bdd7c8497a2fd1c246cb4c752f601#128

/-- The log table (R114): the discrete logarithm to base {03}, with log[0] = 0. -/
def logRom : BitVec 2048 :=
  0x0000190132021ac64bc71b6833eedf03#128 ++
  0x6404e00e348d81ef4c7108c8f8691cc1#128 ++
  0x7dc21db5f9b9276a4de4a6729ac90978#128 ++
  0x652f8a05210fe12412f082453593da8e#128 ++
  0x968fdbbd36d0ce94135cd2f140468338#128 ++
  0x66ddfd30bf068b62b325e29822889110#128 ++
  0x7e6e48c3a3b61e423a6b2854fa853dba#128 ++
  0x2b790a159b9f5eca4ed4ace5f373a757#128 ++
  0xaf58a850f4ead6744faee9d5e7e6ade8#128 ++
  0x2cd7757aeb160bf559cb5fb09ca951a0#128 ++
  0x7f0cf66f17c449ecd8431f2da4767bb7#128 ++
  0xccbb3e5afb60b1863b52a16caa55299d#128 ++
  0x97b2879061bedcfcbc95cfcd373f5bd1#128 ++
  0x5339843c41a26d47142a9e5d56f2d3ab#128 ++
  0x441192d923202e89b47cb8267799e3a5#128 ++
  0x674aeddec531fe180d638c80c0f77007#128

/-- The sbox table (R115): SubBytes. -/
def sboxRom : BitVec 2048 :=
  0x637c777bf26b6fc53001672bfed7ab76#128 ++
  0xca82c97dfa5947f0add4a2af9ca472c0#128 ++
  0xb7fd9326363ff7cc34a5e5f171d83115#128 ++
  0x04c723c31896059a071280e2eb27b275#128 ++
  0x09832c1a1b6e5aa0523bd6b329e32f84#128 ++
  0x53d100ed20fcb15b6acbbe394a4c58cf#128 ++
  0xd0efaafb434d338545f9027f503c9fa8#128 ++
  0x51a3408f929d38f5bcb6da2110fff3d2#128 ++
  0xcd0c13ec5f974417c4a77e3d645d1973#128 ++
  0x60814fdc222a908846eeb814de5e0bdb#128 ++
  0xe0323a0a4906245cc2d3ac629195e479#128 ++
  0xe7c8376d8dd54ea96c56f4ea657aae08#128 ++
  0xba78252e1ca6b4c6e8dd741f4bbd8b8a#128 ++
  0x703eb5664803f60e613557b986c11d9e#128 ++
  0xe1f8981169d98e949b1e87e9ce5528df#128 ++
  0x8ca1890dbfe6426841992d0fb054bb16#128

/-- The inv_sbox table (R116): InvSubBytes. -/
def invSboxRom : BitVec 2048 :=
  0x52096ad53036a538bf40a39e81f3d7fb#128 ++
  0x7ce339829b2fff87348e4344c4dee9cb#128 ++
  0x547b9432a6c2233dee4c950b42fac34e#128 ++
  0x082ea16628d924b2765ba2496d8bd125#128 ++
  0x72f8f66486689816d4a45ccc5d65b692#128 ++
  0x6c704850fdedb9da5e154657a78d9d84#128 ++
  0x90d8ab008cbcd30af7e45805b8b34506#128 ++
  0xd02c1e8fca3f0f02c1afbd0301138a6b#128 ++
  0x3a9111414f67dcea97f2cfcef0b4e673#128 ++
  0x96ac7422e7ad3585e2f937e81c75df6e#128 ++
  0x47f11a711d29c5896fb7620eaa18be1b#128 ++
  0xfc563e4bc6d279209adbc0fe78cd5af4#128 ++
  0x1fdda8338807c731b11210592780ec5f#128 ++
  0x60517fa919b54a0d2de57a9f93c99cef#128 ++
  0xa0e03b4dae2af5b0c8ebbb3c83539961#128 ++
  0x172b047eba77d626e169146355210c7d#128

/-- Entry `i` of a ROM of 256 bytes whose entry 0 comes first. -/
def romByte (rom : BitVec 2048) (i : Nat) : Byte := rom.extractLsb' (8 * (255 - i)) 8

/-- `pow[i]` (R113). -/
def pow (i : Nat) : Byte := romByte powRom i

/-- `log[a]` (R114). -/
def log (a : Byte) : Byte := romByte logRom a.toNat

/-- `sbox[a]` (R115). -/
def sbox (a : Byte) : Byte := romByte sboxRom a.toNat

/-- `inv_sbox[a]` (R116). -/
def invSbox (a : Byte) : Byte := romByte invSboxRom a.toNat

/-- The pow loop of R113 from the value `x` on, `n` entries: each step multiplies by {03}. -/
def genPowFrom : Nat → Byte → List Byte
  | 0, _ => []
  | n + 1, x => x :: genPowFrom n (x ^^^ xtime x)

/-- The pow table as R113 builds it. -/
def genPow : List Byte := genPowFrom 256 0x01

/-- The log table as R114 builds it from a pow table: entry 0 is 0, then log[pow[i]] is set to i for i = 0..254. -/
def genLog (p : Nat → Byte) : List Byte :=
  (List.range 255).foldl (fun t i => t.set (p i).toNat (BitVec.ofNat 8 i)) (List.replicate 256 0)

/-- Entry `i` of the sbox table as R115 builds it: the multiplicative inverse, then the affine transform. -/
def genSboxEntry (i : Nat) : Byte :=
  let x := if i = 0 then 0x00 else pow (255 - (log (BitVec.ofNat 8 i)).toNat)
  x ^^^ rotl8 x 1 ^^^ rotl8 x 2 ^^^ rotl8 x 3 ^^^ rotl8 x 4 ^^^ 0x63

/-- The sbox table as R115 builds it. -/
def genSbox : List Byte := (List.range 256).map genSboxEntry

/-- The inv_sbox table as R116 builds it: inv_sbox[sbox[i]] is set to i for every i. -/
def genInvSbox : List Byte :=
  (List.range 256).foldl (fun t i => t.set (sbox (BitVec.ofNat 8 i)).toNat (BitVec.ofNat 8 i)) (List.replicate 256 0)

/-- The GF(2^8) multiplier (R112): the logarithms are added with no 8-bit wrap, then reduced mod 255. -/
def gmul (a b : Byte) : Byte := if a = 0 ∨ b = 0 then 0x00 else pow (((log a).toNat + (log b).toNat) % 255)

/-- `ft0[a]` (R117): the column (02·s, s, s, 03·s) for s = sbox[a]. -/
def ft0 (a : Byte) : Word :=
  let x := sbox a
  let y := xtime x
  wordOf y x x (x ^^^ y)

/-- `ftk[a]` for k = 0..3: ft0 rotated right by 8k (R118). -/
def ft (k : Nat) (a : Byte) : Word := rotr32 (ft0 a) (8 * k)

/-- `rt0[a]` (R119): the column (0E·v, 09·v, 0D·v, 0B·v) for v = inv_sbox[a]. -/
def rt0 (a : Byte) : Word :=
  let x := invSbox a
  wordOf (gmul 0x0E x) (gmul 0x09 x) (gmul 0x0D x) (gmul 0x0B x)

/-- `rtk[a]` for k = 0..3: rt0 rotated right by 8k (R120). -/
def rt (k : Nat) (a : Byte) : Word := rotr32 (rt0 a) (8 * k)

/-- `ktk[a]` for k = 0..3 (R121). -/
def kt (k : Nat) (a : Byte) : Word := rt k (sbox a)

/-- The running value `r` of the rcon loop: {02} to the power `i` (R122). -/
def rconByte : Nat → Byte
  | 0 => 0x01
  | i + 1 => xtime (rconByte i)

/-- `rcon[i]`, i = 0..9 (R122). -/
def rcon (i : Nat) : Word := wordOf (rconByte i) 0 0 0

/-- How many entries the table of id `id` has (R126); ids above 16 name no table. -/
def tableSize (id : Nat) : Nat := if id < 16 then 256 else if id = 16 then 10 else 0

/-- Entry `i` of the table of id `id`, zero-extended to 32 bits (R125, R126). An id that names no table is refused by TBL_READ
before this is asked. -/
def tableEntry (id i : Nat) : Word :=
  let a : Byte := BitVec.ofNat 8 i
  match id with
  | 0 => (pow i).zeroExtend 32
  | 1 => (log a).zeroExtend 32
  | 2 => (sbox a).zeroExtend 32
  | 3 => (invSbox a).zeroExtend 32
  | 4 => ft 0 a
  | 5 => ft 1 a
  | 6 => ft 2 a
  | 7 => ft 3 a
  | 8 => rt 0 a
  | 9 => rt 1 a
  | 10 => rt 2 a
  | 11 => rt 3 a
  | 12 => kt 0 a
  | 13 => kt 1 a
  | 14 => kt 2 a
  | 15 => kt 3 a
  | 16 => rcon i
  | _ => 0

end Sys2Proof.Machine
end

