-- ==== Sys2Proof/Machine/Aes.lean ====
section
/-! DEFINITION. The AES unit (41_aes.md): the word primitives, the key schedules, the rounds and the four AES commands. -/

namespace Sys2Proof.Machine

/-- SubWord (41_aes.md R151). -/
def subWord (w : Word) : Word :=
  wordOf (sbox (byteAt w 0)) (sbox (byteAt w 1)) (sbox (byteAt w 2)) (sbox (byteAt w 3))

/-- IMC, InvMixColumns of a round-key word (41_aes.md R152). -/
def imc (w : Word) : Word := kt 0 (byteAt w 0) ^^^ kt 1 (byteAt w 1) ^^^ kt 2 (byteAt w 2) ^^^ kt 3 (byteAt w 3)

/-- RotWord (41_aes.md R153). -/
def rotWord (w : Word) : Word := rotl32 w 8

/-- The key length is one AES has, and the byte count matches the bit length (41_aes.md R154). -/
def keyLengthOk (keybytes bitlen : Nat) : Bool :=
  (bitlen = 128 || bitlen = 192 || bitlen = 256) && keybytes = bitlen / 8

/-- The value `n` of `nr` that AES_KEYSETUP stores (41_aes.md R154). -/
def roundsOf : Nat → Rounds
  | 10 => .r10
  | 12 => .r12
  | 14 => .r14
  | _ => .unkeyed

/-- The word XORed with `erk[i - nk]`, made from `t = erk[i - 1]` (41_aes.md R155, R156). -/
def expandTransform (nk i : Nat) (t : Word) : Word :=
  if i % nk = 0 then subWord (rotWord t) ^^^ rcon (i / nk - 1)
  else if nk = 8 ∧ i % 8 = 4 then subWord t
  else t

/-- One turn of ExpandKey's second loop: `erk[i]` is written (41_aes.md R155). -/
def expandStep (nk : Nat) (erk : RkStore) (i : Nat) : RkStore :=
  erk.setIfInBounds i (wordAt erk (i - nk) ^^^ expandTransform nk i (wordAt erk (i - 1)))

/-- ExpandKey (41_aes.md R155): the key words, then the words `nk` to `4(n+1) - 1` in increasing order. Words above stay as
they were (R158). -/
def expandKey (nk n : Nat) (sn : Snapshot) (erk : RkStore) : RkStore :=
  let loaded := (List.range nk).foldl (fun e i => e.setIfInBounds i (sn.keyWord i)) erk
  (List.range' nk (4 * (n + 1) - nk)).foldl (expandStep nk) loaded

/-- Word `i` of the decryption schedule of `n` rounds made from `erk` (41_aes.md R157): round r = i / 4 takes round n - r of
`erk`, unchanged in the first and the last round and through IMC in between. -/
def decryptionWord (n : Nat) (erk : RkStore) (i : Nat) : Word :=
  let w := wordAt erk (4 * (n - i / 4) + i % 4)
  if i / 4 = 0 ∨ i / 4 = n then w else imc w

/-- DeriveDecryptionKeys (41_aes.md R157). Words at `4(n+1)` and above stay as they were (R158). -/
def deriveDecryptionKeys (n : Nat) (erk drk : RkStore) : RkStore :=
  Vector.ofFn fun i : Fin Config.rkWords => if i.val < 4 * (n + 1) then decryptionWord n erk i.val else wordAt drk i.val

/-- Round key `r` of a schedule: words 4r to 4r+3 (41_aes.md R162). -/
def roundKey (rk : RkStore) (r : Nat) : Block :=
  #v[wordAt rk (4 * r), wordAt rk (4 * r + 1), wordAt rk (4 * r + 2), wordAt rk (4 * r + 3)]

/-- AddRoundKey: the four words XORed (41_aes.md R162, R165). -/
def addRoundKey (x k : Block) : Block := #v[x[0] ^^^ k[0], x[1] ^^^ k[1], x[2] ^^^ k[2], x[3] ^^^ k[3]]

/-- FRound, one full forward round (41_aes.md R160). -/
def fRound (x k : Block) : Block :=
  #v[k[0] ^^^ ft 0 (byteAt x[0] 0) ^^^ ft 1 (byteAt x[1] 1) ^^^ ft 2 (byteAt x[2] 2) ^^^ ft 3 (byteAt x[3] 3),
     k[1] ^^^ ft 0 (byteAt x[1] 0) ^^^ ft 1 (byteAt x[2] 1) ^^^ ft 2 (byteAt x[3] 2) ^^^ ft 3 (byteAt x[0] 3),
     k[2] ^^^ ft 0 (byteAt x[2] 0) ^^^ ft 1 (byteAt x[3] 1) ^^^ ft 2 (byteAt x[0] 2) ^^^ ft 3 (byteAt x[1] 3),
     k[3] ^^^ ft 0 (byteAt x[3] 0) ^^^ ft 1 (byteAt x[0] 1) ^^^ ft 2 (byteAt x[1] 2) ^^^ ft 3 (byteAt x[2] 3)]

/-- One word of FFinal: the S-box of one byte of each of four words (41_aes.md R161). -/
def sboxWord (w0 w1 w2 w3 : Word) : Word :=
  wordOf (sbox (byteAt w0 0)) (sbox (byteAt w1 1)) (sbox (byteAt w2 2)) (sbox (byteAt w3 3))

/-- FFinal, the last forward round (41_aes.md R161). -/
def fFinal (x k : Block) : Block :=
  #v[k[0] ^^^ sboxWord x[0] x[1] x[2] x[3],
     k[1] ^^^ sboxWord x[1] x[2] x[3] x[0],
     k[2] ^^^ sboxWord x[2] x[3] x[0] x[1],
     k[3] ^^^ sboxWord x[3] x[0] x[1] x[2]]

/-- The rounds of AES_ENCRYPT with `n` rounds (41_aes.md R162). -/
def encryptBlock (n : Nat) (erk : RkStore) (p : Block) : Block :=
  let x := (List.range' 1 (n - 1)).foldl (fun x r => fRound x (roundKey erk r)) (addRoundKey p (roundKey erk 0))
  fFinal x (roundKey erk n)

/-- RRound, one full inverse round of the equivalent inverse cipher (41_aes.md R163). -/
def rRound (x k : Block) : Block :=
  #v[k[0] ^^^ rt 0 (byteAt x[0] 0) ^^^ rt 1 (byteAt x[3] 1) ^^^ rt 2 (byteAt x[2] 2) ^^^ rt 3 (byteAt x[1] 3),
     k[1] ^^^ rt 0 (byteAt x[1] 0) ^^^ rt 1 (byteAt x[0] 1) ^^^ rt 2 (byteAt x[3] 2) ^^^ rt 3 (byteAt x[2] 3),
     k[2] ^^^ rt 0 (byteAt x[2] 0) ^^^ rt 1 (byteAt x[1] 1) ^^^ rt 2 (byteAt x[0] 2) ^^^ rt 3 (byteAt x[3] 3),
     k[3] ^^^ rt 0 (byteAt x[3] 0) ^^^ rt 1 (byteAt x[2] 1) ^^^ rt 2 (byteAt x[1] 2) ^^^ rt 3 (byteAt x[0] 3)]

/-- One word of RFinal: the inverse S-box of one byte of each of four words (41_aes.md R164). -/
def invSboxWord (w0 w1 w2 w3 : Word) : Word :=
  wordOf (invSbox (byteAt w0 0)) (invSbox (byteAt w1 1)) (invSbox (byteAt w2 2)) (invSbox (byteAt w3 3))

/-- RFinal, the last inverse round (41_aes.md R164). -/
def rFinal (x k : Block) : Block :=
  #v[k[0] ^^^ invSboxWord x[0] x[3] x[2] x[1],
     k[1] ^^^ invSboxWord x[1] x[0] x[3] x[2],
     k[2] ^^^ invSboxWord x[2] x[1] x[0] x[3],
     k[3] ^^^ invSboxWord x[3] x[2] x[1] x[0]]

/-- The rounds of AES_DECRYPT with `n` rounds (41_aes.md R165). -/
def decryptBlock (n : Nat) (drk : RkStore) (c : Block) : Block :=
  let x := (List.range' 1 (n - 1)).foldl (fun x r => rRound x (roundKey drk r)) (addRoundKey c (roundKey drk 0))
  rFinal x (roundKey drk n)

/-- AES_KEYSETUP (41_aes.md R154); a refused one sets `nr` to 0 and writes no round-key word (R159). -/
def execAesKeysetup (keybytes bitlen : Nat) (s : State) : Result :=
  if keyLengthOk keybytes bitlen then
    let nk := bitlen / 32
    let n := nk + 6
    let erk := expandKey nk n s.snap s.aes.erk
    let drk := deriveDecryptionKeys n erk s.aes.drk
    succeed (s.setAes { nr := roundsOf n, erk := erk, drk := drk })
  else raise .invalidKeyLength (s.setAes { s.aes with nr := .unkeyed })

/-- AES_ENCRYPT (41_aes.md R162). -/
def execAesEncrypt (s : State) : Result :=
  if s.aes.nr = .unkeyed then raise .uninitializedContext s
  else succeed (s.setDout (encryptBlock s.aes.nr.num s.aes.erk s.snap.din))

/-- AES_DECRYPT (41_aes.md R165). -/
def execAesDecrypt (s : State) : Result :=
  if s.aes.nr = .unkeyed then raise .uninitializedContext s
  else succeed (s.setDout (decryptBlock s.aes.nr.num s.aes.drk s.snap.din))

/-- AES_RKREAD (41_aes.md R171). -/
def execAesRkread (sched index : Nat) (s : State) : Result :=
  if s.aes.nr = .unkeyed then raise .uninitializedContext s
  else if sched > 1 then raise .argumentRange s
  else if index ≥ 4 * (s.aes.nr.num + 1) then raise .argumentRange s
  else succeed (s.setRdata (wordAt (if sched = 0 then s.aes.erk else s.aes.drk) index))

end Sys2Proof.Machine
end

