-- ==== Sys2Proof/Machine/Control.lean ====
section
/-! DEFINITION. NOP and the completion of an illegal command word (43_control.md R245, 30_encoding.md R94). -/

namespace Sys2Proof.Machine

/-- NOP: completes with success and does nothing else (43_control.md R245). -/
def execNop (s : State) : Result := succeed s

/-- A command word the decoder refuses completes with IllegalCommand and changes no other state (30_encoding.md R94, R95). -/
def execIllegal (s : State) : Result := raise .illegalCommand s

end Sys2Proof.Machine
end

