-- ==== Sys2Proof/Machine/Sha.lean ====
section
/-! DEFINITION. The SHA-256 unit (42_sha256.md): the word functions, the constants, the compression function and the three SHA
commands. Addition of words wraps modulo 2^32 (R200). -/

namespace Sys2Proof.Machine

/-- σ0 (42_sha256.md R201). -/
def smallSigma0 (x : Word) : Word := rotr32 x 7 ^^^ rotr32 x 18 ^^^ shr x 3

/-- σ1 (R201). -/
def smallSigma1 (x : Word) : Word := rotr32 x 17 ^^^ rotr32 x 19 ^^^ shr x 10

/-- Σ0 (R201). -/
def bigSigma0 (x : Word) : Word := rotr32 x 2 ^^^ rotr32 x 13 ^^^ rotr32 x 22

/-- Σ1 (R201). -/
def bigSigma1 (x : Word) : Word := rotr32 x 6 ^^^ rotr32 x 11 ^^^ rotr32 x 25

/-- Ch (R201). -/
def ch (x y z : Word) : Word := (x &&& y) ^^^ (~~~x &&& z)

/-- Maj (R201). -/
def maj (x y z : Word) : Word := (x &&& y) ^^^ (x &&& z) ^^^ (y &&& z)

/-- The round constants K[0..63] (R202). -/
def shaK : List Word :=
  [0x428a2f98, 0x71374491, 0xb5c0fbcf, 0xe9b5dba5, 0x3956c25b, 0x59f111f1, 0x923f82a4, 0xab1c5ed5] ++
  [0xd807aa98, 0x12835b01, 0x243185be, 0x550c7dc3, 0x72be5d74, 0x80deb1fe, 0x9bdc06a7, 0xc19bf174] ++
  [0xe49b69c1, 0xefbe4786, 0x0fc19dc6, 0x240ca1cc, 0x2de92c6f, 0x4a7484aa, 0x5cb0a9dc, 0x76f988da] ++
  [0x983e5152, 0xa831c66d, 0xb00327c8, 0xbf597fc7, 0xc6e00bf3, 0xd5a79147, 0x06ca6351, 0x14292967] ++
  [0x27b70a85, 0x2e1b2138, 0x4d2c6dfc, 0x53380d13, 0x650a7354, 0x766a0abb, 0x81c2c92e, 0x92722c85] ++
  [0xa2bfe8a1, 0xa81a664b, 0xc24b8b70, 0xc76c51a3, 0xd192e819, 0xd6990624, 0xf40e3585, 0x106aa070] ++
  [0x19a4c116, 0x1e376c08, 0x2748774c, 0x34b0bcb5, 0x391c0cb3, 0x4ed8aa4a, 0x5b9cca4f, 0x682e6ff3] ++
  [0x748f82ee, 0x78a5636f, 0x84c87814, 0x8cc70208, 0x90befffa, 0xa4506ceb, 0xbef9a3f7, 0xc67178f2]

/-- The initial hash value H0[0..7] (R203). -/
def shaH0 : Vector Word 8 :=
  #v[0x6a09e667, 0xbb67ae85, 0x3c6ef372, 0xa54ff53a, 0x510e527f, 0x9b05688c, 0x1f83d9ab, 0x5be0cd19]

/-- `W[0..15]`: the block's words, loaded big-endian (R204). -/
def blockWords (m : List Byte) : List Word :=
  (List.range 16).map fun t => wordOf (m.getD (4 * t) 0) (m.getD (4 * t + 1) 0) (m.getD (4 * t + 2) 0) (m.getD (4 * t + 3) 0)

/-- One turn of the message schedule's second loop: `W[t]` is added to `W[0..t-1]` (R204). -/
def scheduleStep (w : List Word) (t : Nat) : List Word :=
  w ++ [smallSigma1 (w.getD (t - 2) 0) + w.getD (t - 7) 0 + smallSigma0 (w.getD (t - 15) 0) + w.getD (t - 16) 0]

/-- The message schedule `W[0..63]` of a 64-byte block (R204). -/
def messageSchedule (m : List Byte) : List Word := (List.range' 16 48).foldl scheduleStep (blockWords m)

/-- The eight working variables (R205). -/
structure Working where
  a : Word
  b : Word
  c : Word
  d : Word
  e : Word
  f : Word
  g : Word
  h : Word
  deriving DecidableEq, Repr

/-- One of the 64 rounds, with its round constant `k` and its schedule word `w` (R205). -/
def shaRound (v : Working) (k w : Word) : Working :=
  let t1 := v.h + bigSigma1 v.e + ch v.e v.f v.g + k + w
  let t2 := bigSigma0 v.a + maj v.a v.b v.c
  { a := t1 + t2, b := v.a, c := v.b, d := v.c, e := v.d + t1, f := v.e, g := v.f, h := v.g }

/-- The working variables after the 64 rounds on block `m` (R205). -/
def shaRounds (h : Vector Word 8) (m : List Byte) : Working :=
  (shaK.zip (messageSchedule m)).foldl (fun v kw => shaRound v kw.1 kw.2)
    { a := h[0], b := h[1], c := h[2], d := h[3], e := h[4], f := h[5], g := h[6], h := h[7] }

/-- The compression function on eight state words and one 64-byte block (R205). -/
def compress (h : Vector Word 8) (m : List Byte) : Vector Word 8 :=
  let v := shaRounds h m
  #v[h[0] + v.a, h[1] + v.b, h[2] + v.c, h[3] + v.d, h[4] + v.e, h[5] + v.f, h[6] + v.g, h[7] + v.h]

/-- The while loop of SHA_UPDATE, `n` turns of it (R207): each compresses the first 64 bytes of `s` and drops them. -/
def absorbBlocks : Nat → Vector Word 8 → List Byte → Vector Word 8 × List Byte
  | 0, h, s => (h, s)
  | n + 1, h, s => absorbBlocks n (compress h (s.take 64)) (s.drop 64)

/-- The valid bytes of the partial block, `sha_buf[0 .. sha_count)` (10_state.md R37). -/
def ShaContext.buffered (c : ShaContext) : List Byte := c.buf.toList.take c.count.toNat

/-- `sha_buf[0 .. |s|) <- s`; the bytes above keep what they held (42_sha256.md R207, R215). -/
def storeBytes (buf : Vector Byte 64) (s : List Byte) : Vector Byte 64 :=
  Vector.ofFn fun i : Fin 64 => if i.val < s.length then s.getD i.val 0 else buf[i]

/-- The context after absorbing the bytes `d` (R207): the while loop runs once for each full block of the stream. -/
def ShaContext.absorb (c : ShaContext) (d : List Byte) : ShaContext :=
  let s := c.buffered ++ d
  let r := absorbBlocks (s.length / 64) c.h s
  { h := r.1
    total := c.total + BitVec.ofNat 64 d.length
    buf := storeBytes c.buf r.2
    count := BitVec.ofNat 6 r.2.length
    state := .accum }

/-- SHA_FINISH's padding and last compressions (R210), for the byte count `total`, from the state `h` and the buffered bytes
`s`. -/
def padAndCompress (total : Nat) (h : Vector Word 8) (s : List Byte) : Vector Word 8 :=
  let len := beBytes 8 (8 * total)
  let s := s ++ [0x80]
  if s.length > 56 then
    let h := compress h (s ++ List.replicate (64 - s.length) 0)
    compress h (List.replicate 56 0 ++ len)
  else compress h (s ++ List.replicate (56 - s.length) 0 ++ len)

/-- SHA_START (42_sha256.md R206). -/
def execShaStart (s : State) : Result :=
  succeed (s.setSha { h := shaH0, total := 0, buf := s.sha.buf, count := 0, state := .idle })

/-- SHA_UPDATE (42_sha256.md R207); its errors come in the rule's order, the counter never wraps (R208), and a zero-length
update changes no context state (R209). -/
def execShaUpdate (len : Nat) (s : State) : Result :=
  if !s.sha.started then raise .uninitializedContext s
  else if len > 64 then raise .bufferLengthMismatch s
  else if s.sha.total.toNat + len > Config.shaMaxBytes then raise .counterOverflow s
  else if len = 0 then succeed s
  else succeed (s.setSha (s.sha.absorb (s.snap.message len)))

/-- SHA_FINISH (42_sha256.md R210). `total` is not changed by padding. -/
def execShaFinish (s : State) : Result :=
  if !s.sha.started then raise .uninitializedContext s
  else
    let h := padAndCompress s.sha.total.toNat s.sha.h s.sha.buffered
    succeed ((s.setSha { s.sha with h := h, count := 0, state := .final }).setDigest h)

end Sys2Proof.Machine
end

