-- ==== Sys2Proof/Machine/Table.lean ====
section
/-! DEFINITION. The table generator's command, TBL_READ (40_gf_tables.md R125). -/

namespace Sys2Proof.Machine

/-- TBL_READ (40_gf_tables.md R125). -/
def execTblRead (table index : Nat) (s : State) : Result :=
  if table > 16 then raise .argumentRange s
  else if table = 16 ∧ index > 9 then raise .argumentRange s
  else if table < 16 ∧ index > 255 then raise .argumentRange s
  else succeed (s.setRdata (tableEntry table index))

end Sys2Proof.Machine
end

