-- ==== Sys2Proof/Machine/Dispatch.lean ====
section
/-! DEFINITION. One arm per command: which meaning the complete step runs (43_control.md R243). -/

namespace Sys2Proof.Machine

def exec (i : Instr) (s : State) : Host.Outcome State Fault Refusal :=
  match i with
  | .nop => Sys2Proof.Machine.execNop s
  | .aesKeysetup keybytes bitlen => Sys2Proof.Machine.execAesKeysetup keybytes bitlen s
  | .aesEncrypt => Sys2Proof.Machine.execAesEncrypt s
  | .aesDecrypt => Sys2Proof.Machine.execAesDecrypt s
  | .aesRkread sched index => Sys2Proof.Machine.execAesRkread sched index s
  | .shaStart => Sys2Proof.Machine.execShaStart s
  | .shaUpdate len => Sys2Proof.Machine.execShaUpdate len s
  | .shaFinish => Sys2Proof.Machine.execShaFinish s
  | .tblRead table index => Sys2Proof.Machine.execTblRead table index s

end Sys2Proof.Machine
end

