-- ==== Sys2Proof/Machine/Sequencer.lean ====
section
/-! DEFINITION. The core's two internal steps and which of them is enabled (43_control.md R240, R243, R244). -/

namespace Sys2Proof.Machine

/-- The sequencer's *complete* step (43_control.md R243): the pending word is decoded, and its command, or the illegal-command
error, is run to its end. -/
def complete (s : State) : Result :=
  match decode s.pending with
  | .ok i => exec i s
  | .error _ => execIllegal s

/-- The core's internal step (43_control.md R240): the generator's while the tables are not ready, so that a pending command is
held (R244); the complete step when a command is pending and the tables are ready. With neither enabled nothing changes (log
entry 2). At most one of the two is ever enabled, so there is no choice between them. -/
def internalStep (s : State) : Result :=
  if !s.tblReady then .next s.tablesReady
  else if s.busy then complete s
  else .next s

/-- A command word placed as if the host had just written it to CMD with BUSY at 0 and the tables ready (43_control.md R241;
log entry 13): the next slot is the core's own. -/
def placeCommand (s : State) (c : Word) : State :=
  ((s.accept c).tablesReady).withInputs (.idle :: s.inputs)

end Sys2Proof.Machine
end

