-- ==== Sys2Proof/Machine/Step.lean ====
section
/-! DEFINITION. One step of the machine: the next slot of the total order of host accesses and internal events (20_memory.md
R79). -/

namespace Sys2Proof.Machine

/-- One step. The next port event, if there is one, says whether the host acts (an access, or reset asserted) or the core does;
with no port event to come the core goes on by itself (43_control.md R240; log entry 1). -/
def step (s : State) : Host.Outcome State Fault Refusal :=
  match s.inputs with
  | [] => internalStep s
  | .idle :: es => internalStep (s.withInputs es)
  | .reset :: es => .next (State.resetTo es)
  | .access a :: es => .next ((s.withInputs es).access a)

/-- The state in which the very next step runs the command word whose table bits are `w` (log entry 13). -/
def State.withFetchWord (s : State) (nbits w : Nat) : State := placeCommand s (tableWord nbits w)

end Sys2Proof.Machine
end

