-- ==== Sys2Proof/Machine/HostProgram.lean ====
section
/-! DEFINITION. Host programs: the mnemonics of 30_encoding.md R97, the host actions of R98 and the pseudo-instructions of R99,
and which lists of port events are a run of a host program. -/

namespace Sys2Proof.Machine

/-- `wr OFF, V` (R98). An offset is below 0x100, as every register's is (10_state.md R22; log entry 22). -/
def hostWr (off : Nat) (v : Word) : PortEvent := .access { op := .write v, off := BitVec.ofNat 8 off, width := 4 }

/-- `rd OFF` (R98), with the offset as in `hostWr`. -/
def hostRd (off : Nat) : PortEvent := .access { op := .read, off := BitVec.ofNat 8 off, width := 4 }

/-- What `cmd` takes (R97): a command with its operands, or the raw word of `.word V`, for illegal encodings. -/
inductive Mnemonic where
  | command (i : Instr)
  | word (v : Word)
  deriving DecidableEq, Repr

/-- The word a mnemonic encodes as (R97; log entry 22 for operands that do not fit). -/
def Mnemonic.encode : Mnemonic → Word
  | .command i => Sys2Proof.encode i
  | .word v => v

/-- One action of a host program (R98, R99). `wait` is the one pseudo-instruction whose expansion has no fixed length, so it is
an action here; `hostAfter` says how it loops. -/
inductive HostAction where
  | wr (off : Nat) (v : Word)
  | rd (off : Nat)
  | wait
  deriving DecidableEq, Repr

/-- The access the action performs; `wait` performs reads of STATUS (R98, R99). -/
def HostAction.event : HostAction → PortEvent
  | .wr off v => hostWr off v
  | .rd off => hostRd off
  | .wait => hostRd 0x04

/-- `cmd M` (R98). -/
def hostCmd (m : Mnemonic) : HostAction := .wr 0x00 m.encode

/-- `clr`: clears DONE and OVERRUN (R99). -/
def hostClr : HostAction := .wr 0x04 0x00000006

/-- Writes of successive words from offset `off` on. -/
def hostWords (off : Nat) : List Word → List HostAction
  | [] => []
  | w :: ws => .wr off w :: hostWords (off + 4) ws

/-- `key K0..K(n-1)` (R99). -/
def hostKey (ws : List Word) : List HostAction := hostWords 0x10 ws

/-- `block P0, P1, P2, P3` (R99). -/
def hostBlock (p : Block) : List HostAction := hostWords 0x30 p.toList

/-- `msg M0..M(n-1)` (R99). -/
def hostMsg (ws : List Word) : List HostAction := hostWords 0x50 ws

/-- `run M` (R99). -/
def hostRun (m : Mnemonic) : List HostAction := [hostCmd m, .wait]

/-- The words of a byte string, zero-padded to whole words (R99). -/
def packWords : List Byte → List Word
  | [] => []
  | [a] => [wordOf a 0 0 0]
  | [a, b] => [wordOf a b 0 0]
  | [a, b, c] => [wordOf a b c 0]
  | a :: b :: c :: d :: m => wordOf a b c d :: packWords m

/-- One piece of `sha.bytes`: at most 64 bytes (R99). -/
def hostShaPiece (p : List Byte) : List HostAction := hostMsg (packWords p) ++ hostRun (.command (.shaUpdate p.length))

/-- The first `n` pieces of a byte string, 64 bytes each (R99). -/
def hostShaPieces : Nat → List Byte → List HostAction
  | 0, _ => []
  | n + 1, m => hostShaPiece (m.take 64) ++ hostShaPieces n (m.drop 64)

/-- `sha.bytes S`: all pieces of `S`, of which the last may be shorter, and none for an empty one (R99). -/
def hostShaBytes (m : List Byte) : List HostAction := hostShaPieces ((m.length + 63) / 64) m

/-- The port answered a read of STATUS with BUSY = 1 (10_state.md R24). -/
def readsBusy : Option BusResponse → Bool
  | some (.data w) => w.getLsbD 0
  | some .ack => false
  | some .busError => false
  | none => false

/-- What is left of a host program after the port event `e`, which the port answered with `r`; none when `e` is not the next
access of the program. A slot of the core leaves all of it. A read of `wait` that returns BUSY = 1 leaves the `wait`, and one that
returns BUSY = 0 ends it (R99). -/
def hostAfter (acts : List HostAction) (e : PortEvent) (r : Option BusResponse) : Option (List HostAction) :=
  if e = .idle then some acts
  else
    match acts with
    | [] => none
    | a :: rest => if e = a.event then some (if a = .wait && readsBusy r then a :: rest else rest) else none

/-- The port events, taken from state `s` on, are a run of the host program from its first action to its last. The core may step
any number of times before, between and after the accesses, also between two reads of one `wait` (R98, R99; 43_control.md R240; log
entry 1). -/
def hostPlays : List PortEvent → List HostAction → State → Bool
  | [], acts, _ => acts.isEmpty
  | e :: es, acts, s =>
    match step (s.withInputs (e :: es)) with
    | .next t =>
      match hostAfter acts e t.response with
      | some rest => hostPlays es rest t
      | none => false
    | .fault _ => false
    | .refused _ => false

end Sys2Proof.Machine
end

