-- ==== Sys2Proof/Safety/Fips197.lean ====
section
/-! DEFINITION. The AES cipher in the terms of FIPS-197, byte by byte: what the T-table rounds of 41_aes.md are claimed to
compute (R160, R163, R167; the byte patterns and the matrices are 93_implementation_defined.md G2 to G5). Nothing in the machine
uses this file; claims are stated with it. -/

namespace Sys2Proof.Fips197

open Sys2Proof.Machine

/-- `a` times {02} to the power `k`. -/
def xtimes : Nat → Byte → Byte
  | 0, a => a
  | k + 1, a => xtime (xtimes k a)

/-- The shift-and-add product in GF(2^8): for each set bit `k` of `b`, XOR in `a` times {02} to the power `k` (40_gf_tables.md
R112). It uses no table. -/
def mul (a b : Byte) : Byte := (List.range 8).foldl (fun p k => if b.getLsbD k then p ^^^ xtimes k a else p) 0

/-- The byte in row `r` and column `c` of the AES state; columns are counted mod 4 (20_memory.md R76). -/
def cell (x : Block) (r c : Nat) : Byte := byteAt (wordAt x (c % 4)) (r % 4)

/-- The AES state with byte `f r c` in row `r` and column `c`. -/
def ofCells (f : Nat → Nat → Byte) : Block := Vector.ofFn fun c : Fin 4 => wordOf (f 0 c) (f 1 c) (f 2 c) (f 3 c)

/-- SubBytes. -/
def subBytes (x : Block) : Block := ofCells fun r c => sbox (cell x r c)

/-- ShiftRows: row `r` moves left by `r` (G4). -/
def shiftRows (x : Block) : Block := ofCells fun r c => cell x r (c + r)

/-- MixColumns: the circulant of 02 03 01 01 (G2). -/
def mixColumns (x : Block) : Block :=
  ofCells fun r c => mul 0x02 (cell x r c) ^^^ mul 0x03 (cell x (r + 1) c) ^^^ cell x (r + 2) c ^^^ cell x (r + 3) c

/-- InvSubBytes. -/
def invSubBytes (x : Block) : Block := ofCells fun r c => invSbox (cell x r c)

/-- InvShiftRows: row `r` moves right by `r` (G5). -/
def invShiftRows (x : Block) : Block := ofCells fun r c => cell x r (c + 4 - r)

/-- InvMixColumns: the circulant of 0E 0B 0D 09 (G3). -/
def invMixColumns (x : Block) : Block :=
  ofCells fun r c =>
    mul 0x0E (cell x r c) ^^^ mul 0x0B (cell x (r + 1) c) ^^^ mul 0x0D (cell x (r + 2) c) ^^^ mul 0x09 (cell x (r + 3) c)

/-- AddRoundKey: byte by byte. -/
def addKey (x k : Block) : Block := ofCells fun r c => cell x r c ^^^ cell k r c

/-- The FIPS-197 cipher of `n` rounds with the expanded key `rk`. -/
def cipher (n : Nat) (rk : RkStore) (p : Block) : Block :=
  let x := (List.range' 1 (n - 1)).foldl
    (fun x r => addKey (mixColumns (shiftRows (subBytes x))) (roundKey rk r)) (addKey p (roundKey rk 0))
  addKey (shiftRows (subBytes x)) (roundKey rk n)

end Sys2Proof.Fips197
end

