-- ==== Sys2Proof/Safety/Sha256.lean ====
section
/-! DEFINITION. The SHA-256 hash of a whole message, and what it means for the running context to hold one: what the buffered
commands of 42_sha256.md are claimed to compute (R211, R212). Nothing in the machine uses this file; claims are stated with it. -/

namespace Sys2Proof.Sha256

open Sys2Proof.Machine

/-- The first `n` blocks of the byte string `p`, compressed in order from the initial hash value. -/
def hashBlocks (n : Nat) (p : List Byte) : Vector Word 8 :=
  (List.range n).foldl (fun h i => compress h ((p.drop (64 * i)).take 64)) shaH0

/-- The padded message: one byte 0x80, zero bytes, and the bit length in 8 bytes, up to a multiple of 64 bytes (42_sha256.md
R210, source text). -/
def padded (m : List Byte) : List Byte :=
  m ++ [0x80] ++ List.replicate ((119 - m.length % 64) % 64) 0 ++ beBytes 8 (8 * m.length)

/-- The SHA-256 digest of `m` as eight words. -/
def digest (m : List Byte) : Vector Word 8 := hashBlocks ((padded m).length / 64) (padded m)

/-- The context holds the message `m`: the bytes absorbed since the last SHA_START (10_state.md R37; the invariant that
42_sha256.md R212 names). -/
structure Holds (c : ShaContext) (m : List Byte) : Prop where
  short : m.length ≤ Config.shaMaxBytes
  total : c.total.toNat = m.length
  count : c.count.toNat = m.length % 64
  hash : c.h = hashBlocks (m.length / 64) m
  tail : c.buffered = m.drop (64 * (m.length / 64))
  state : c.state = if m = [] then .idle else .accum

/-- Successive SHA_UPDATE commands, each with the operand snapshot its acceptance took and its byte count; the first stop ends
them. -/
def updates : List (Snapshot × Nat) → State → Result
  | [], s => .next s
  | (sn, len) :: us, s =>
    match exec (.shaUpdate len) { s with snap := sn } with
    | .next t => updates us t
    | .fault r => .fault r
    | .refused r => .refused r

/-- The bytes that the successful ones among successive updates carry, in order: an update of more than 64 bytes fails
(42_sha256.md R207). -/
def updateBytes (us : List (Snapshot × Nat)) : List Byte := us.flatMap fun u => if u.2 ≤ 64 then u.1.message u.2 else []

end Sys2Proof.Sha256
end

