-- ==== Sys2Proof/Safety.lean ====
section
/-! DEFINITION. The terms in which claims about the machine are stated: the invariant, what of the state can be observed, and a
host that keeps its duties. -/

namespace Sys2Proof.Machine

/-- `n` steps of the machine in a row; a stop ends them. -/
def runSteps : Nat → State → Result
  | 0, s => .next s
  | n + 1, s =>
    match step s with
    | .next t => runSteps n t
    | .fault r => .fault r
    | .refused r => .refused r

/-- The command words that are illegal (30_encoding.md R93, R94, R95): a reserved opcode, or a defined opcode with a nonzero
reserved field. OP, FA and FB are taken by arithmetic on the word's value (R90). -/
abbrev illegalWord (c : Word) : Prop :=
  let op := c.toNat % 2 ^ 8
  let fa := c.toNat / 2 ^ 8 % 2 ^ 8
  let fb := c.toNat / 2 ^ 16
  op ∉ [0x00, 0x10, 0x11, 0x12, 0x13, 0x20, 0x21, 0x22, 0x30] ∨
    (op ∈ [0x00, 0x11, 0x12, 0x20, 0x22] ∧ (fa ≠ 0 ∨ fb ≠ 0)) ∨
    (op = 0x21 ∧ fb ≠ 0)

/-- The two schedules are those of one key (10_state.md R34; 41_aes.md R155, R157): every word of `erk` from index nk on is made
from the words before it, and `drk` is derived from `erk`. -/
abbrev AesContext.scheduled (a : AesContext) : Prop :=
  let n := a.nr.num
  let nk := n - 6
  (∀ i < 4 * (n + 1), nk ≤ i →
      wordAt a.erk i = wordAt a.erk (i - nk) ^^^ expandTransform nk i (wordAt a.erk (i - 1))) ∧
    ∀ i < 4 * (n + 1), wordAt a.drk i = decryptionWord n a.erk i

/-- The counts of the SHA-256 context agree with its state (10_state.md R37, R38; 42_sha256.md R208, R214). -/
abbrev ShaContext.consistent (c : ShaContext) : Prop :=
  c.total.toNat ≤ Config.shaMaxBytes ∧
    (c.state = .unstarted → c.total = 0 ∧ c.count = 0) ∧
    (c.state = .idle → c.h = shaH0 ∧ c.total = 0 ∧ c.count = 0) ∧
    (c.state = .accum → 0 < c.total.toNat ∧ c.count.toNat = c.total.toNat % 64) ∧
    (c.state = .final → c.count = 0)

/-- The invariant of the core. -/
structure CoreInvariant (s : State) : Prop where
  /-- DONE and ERR were cleared when the pending command was accepted (43_control.md R241). -/
  pendingClean : s.busy = true → s.status.done = false ∧ s.status.err = .none
  /-- While the tables are not ready no command has completed (43_control.md R244). -/
  notReady : s.tblReady = false →
    s.aes = .reset ∧ s.sha = .reset ∧ s.status.done = false ∧ s.status.err = .none ∧
      s.regs.dout = HostRegs.reset.dout ∧ s.regs.digest = HostRegs.reset.digest ∧ s.regs.rdata = 0
  /-- A keyed core holds the schedules of one key (10_state.md R34). -/
  keyed : s.aes.nr ≠ .unkeyed → s.aes.scheduled
  /-- The counts of the SHA-256 context agree with its state. -/
  hashing : s.sha.consistent
  /-- After SHA_FINISH the digest registers hold the hash state (42_sha256.md R211). -/
  finished : s.sha.state = .final → s.regs.digest = s.sha.h

/-- The words of the AES context that some command can read (10_state.md R34): all of the two schedules below `4(nr+1)`, and
none when `nr` is 0. -/
structure AesContext.Same (a b : AesContext) : Prop where
  nr : a.nr = b.nr
  words : a.nr ≠ .unkeyed → ∀ i < 4 * (a.nr.num + 1), wordAt a.erk i = wordAt b.erk i ∧ wordAt a.drk i = wordAt b.drk i

/-- The parts of the SHA-256 context that some command or read can see (42_sha256.md R215; 70_reset_and_hazards.md R301). -/
structure ShaContext.Same (c d : ShaContext) : Prop where
  state : c.state = d.state
  count : c.count = d.count
  running : c.started = true → c.h = d.h ∧ c.total = d.total ∧ c.buffered = d.buffered

/-- The two states differ at most in what nothing can observe (10_state.md R34, R39, R40; 70_reset_and_hazards.md R301;
42_sha256.md R215): round-key words out of reach, a hash state that no command reads, buffer bytes above the count, and the
pending word and snapshot while no command is pending. -/
structure State.Same (s t : State) : Prop where
  regs : s.regs = t.regs
  status : s.status = t.status
  tblReady : s.tblReady = t.tblReady
  aes : s.aes.Same t.aes
  sha : s.sha.Same t.sha
  busy : s.busy = t.busy
  pending : s.busy = true → s.pending = t.pending ∧ s.snap = t.snap
  inputs : s.inputs = t.inputs
  response : s.response = t.response

/-- The state after a host that kept its duties so far: no command of its was dropped and no access refused
(70_reset_and_hazards.md R311, items 1 and 5). -/
abbrev State.clean (s : State) : Prop := s.status.overrun = false ∧ s.response ≠ some .busError

/-- The next port event keeps the host's duties (70_reset_and_hazards.md R311, items 1 and 5): an access is an aligned 32-bit
one, and CMD is not written while BUSY is 1. -/
abbrev State.dutiful (s : State) : Prop :=
  ∀ a, s.inputs.head? = some (.access a) →
    a.served = true ∧ ∀ c, a.op = .write c → a.off = 0 → s.busy = false

end Sys2Proof.Machine
end

