-- ==== Sys2Proof/Certificates/Slice0/Obligations.lean ====
section
/-! DEFINITION. The statements about the model, for the provers. `es` is always the list of port events still to come.
That an exact next state of a completed command keeps the taken word and snapshot, with BUSY at 0, is the model's choice (log
entry 6): the spec calls them meaningless then (10_state.md R39). -/

open Sys2Proof Sys2Proof.Machine

/-! ### Encoding -/

/-- Decoding an encoded command gives it back, with every operand at every value its field admits (30_encoding.md R90, R91,
R100). -/
def Obligations.EncodedCommandDecodesBack : Prop :=
  ∀ i, wellFormed i = true → decode (encode i) = .ok i

/-- A word the decoder takes is the encoding of the command it gives, and that command is well-formed: no bit of the word is
dropped (30_encoding.md R90, R91, R100). -/
def Obligations.DecodedWordEncodesBack : Prop :=
  ∀ c i, decode c = .ok i → wellFormed i = true ∧ encode i = c

/-- The decoder refuses exactly the words with a reserved opcode or a nonzero reserved field (30_encoding.md R93, R95, R100). -/
def Obligations.DecoderRefusesExactlyIllegalWords : Prop :=
  ∀ c, (∃ e, decode c = .error e) ↔ illegalWord c

/-- Words written out in the spec decode to the commands they stand for (95_test_vectors.md V-ENC, V-CTL-6). -/
def Obligations.WorkedWordsDecode : Prop :=
  [0x00000000, 0x00801010, 0x00000011, 0x00000012, 0x00280113, 0x00000020, 0x00000321, 0x00000022, 0x00530230].map
      (fun c : Word => (decode c).toOption) =
    [some .nop, some (.aesKeysetup 16 128), some .aesEncrypt, some .aesDecrypt, some (.aesRkread 1 40), some .shaStart,
      some (.shaUpdate 3), some .shaFinish, some (.tblRead 2 0x53)] ∧
  [0x00000055, 0x00000100, 0x00010000, 0x00000111, 0x00010321, 0x80000022].map (fun c : Word => (decode c).toOption) =
    List.replicate 6 none

/-! ### The life of a command -/

/-- When a command is pending, the tables are ready and the slot is the core's, the step is the decoded command's meaning
(43_control.md R243), after the slot is taken off the list. -/
def Obligations.StepRunsDecodedCommand : Prop :=
  ∀ s i, s.tblReady = true → s.busy = true → decode s.pending = .ok i →
    (s.inputs = [] → step s = exec i s) ∧
      ∀ es, s.inputs = .idle :: es → step s = exec i { s with inputs := es }

/-- R94, R95: an illegal word is accepted like any command, and completes with ERR = 5 and no other change (that the taken word and
snapshot stay is log entry 6). -/
def Obligations.IllegalWordCompletesWithCodeFive : Prop :=
  ∀ s c es, illegalWord c → s.busy = false → s.tblReady = true → s.inputs = hostWr 0x00 c :: .idle :: es →
    ∃ t, step s = .next t ∧ t.busy = true ∧ t.status.done = false ∧
      step t = .next
        { s with
          pending := c
          snap := { key := s.regs.key, din := s.regs.din, msg := s.regs.msg }
          status := { s.status with done := true, err := .illegalCommand }
          busy := false
          inputs := es
          response := some .ack } ∧
      ErrCode.illegalCommand.code = 5

/-- R241: what acceptance takes and changes, and that nothing else changes, whatever the word and whether or not the tables are
ready; an illegal word fails at its completion. -/
def Obligations.AcceptanceTakesWordAndOperands : Prop :=
  (∀ s c es, s.busy = false → s.inputs = hostWr 0x00 c :: es →
    step s = .next
      { s with
        pending := c
        snap := { key := s.regs.key, din := s.regs.din, msg := s.regs.msg }
        busy := true
        status := { s.status with done := false, err := .none }
        inputs := es
        response := some .ack }) ∧
  (∀ s, illegalWord s.pending → ∃ t, complete s = .next t ∧ t.status.err = .illegalCommand)

/-- R242: a CMD write while busy changes nothing but OVERRUN, and OVERRUN then stays until the host writes 1 to STATUS bit 2 or
a reset occurs. -/
def Obligations.CmdWriteWhileBusyIsDropped : Prop :=
  (∀ s c es, s.busy = true → s.inputs = hostWr 0x00 c :: es →
    step s = .next { s with status := { s.status with overrun := true }, inputs := es, response := some .ack }) ∧
  (∀ s t, s.status.overrun = true → step s = .next t → t.status.overrun = false →
    (∃ v es, s.inputs = hostWr 0x04 v :: es ∧ v.getLsbD 2 = true) ∨ ∃ es, s.inputs = .reset :: es)

/-- R244: while the tables are not ready, a pending command of any word is held by every event but a reset, and the core's own
slot makes the tables ready. -/
def Obligations.PendingCommandIsHeldUntilTablesReady : Prop :=
  ∀ s t, s.tblReady = false → s.busy = true → s.inputs.head? ≠ some .reset → step s = .next t →
    t.busy = true ∧ t.pending = s.pending ∧ t.snap = s.snap ∧ t.aes = s.aes ∧ t.sha = s.sha ∧
      t.regs.dout = s.regs.dout ∧ t.regs.digest = s.regs.digest ∧ t.regs.rdata = s.regs.rdata ∧
      (s.inputs = [] ∨ s.inputs.head? = some .idle → t = { s with tblReady := true, inputs := s.inputs.tail })

/-- TBL_READY, once 1, stays 1 until the next reset, and only the core's own slot raises it (40_gf_tables.md R124; log entry 1
for the slot). -/
def Obligations.TablesStayReadyUntilReset : Prop :=
  ∀ s t, step s = .next t →
    (s.tblReady = true → t.tblReady = false → ∃ es, s.inputs = .reset :: es) ∧
      (s.tblReady = false → t.tblReady = true → s.inputs = [] ∨ ∃ es, s.inputs = .idle :: es)

/-- Every accepted command completes, in a number of steps bounded by the host's events to come, unless a reset comes: the step
before, it is still the same command (43_control.md R249). Runs of the model are fair, because the list of events is finite (log
entry 1). So at the end of every run of the host program `run M`, for a command or a raw word, its command has completed, and was not
dropped (30_encoding.md R97, R99); that the core still holds its word then is log entry 6. -/
def Obligations.AcceptedCommandCompletes : Prop :=
  (∀ s, s.busy = true → (∀ e ∈ s.inputs, e ≠ .reset) →
    ∃ n u t, n ≤ s.inputs.length + 1 ∧ runSteps n s = .next u ∧
      u.busy = true ∧ u.pending = s.pending ∧ u.snap = s.snap ∧ u.aes = s.aes ∧ u.sha = s.sha ∧
      step u = .next t ∧ t.busy = false ∧ t.status.done = true) ∧
  (∀ s m, s.busy = false → hostPlays s.inputs (hostRun m) s = true →
    ∃ t, runSteps s.inputs.length s = .next t ∧ t.inputs = [] ∧ t.busy = false ∧ t.status.done = true ∧
      t.pending = m.encode ∧ t.status.overrun = s.status.overrun)

/-- R247: a read of DOUT, DIGEST, RDATA or the live STATUS fields, and the contexts, change only in the step that completes a
command (or by reset). -/
def Obligations.OutputsChangeOnlyAtCompletion : Prop :=
  ∀ s t, step s = .next t → s.inputs.head? ≠ some .reset → (s.busy = false ∨ t.busy = true) →
    (∀ off, (0x40 ≤ off ∧ off < 0x50) ∨ (0x90 ≤ off ∧ off < 0xB4) → readReg t off = readReg s off) ∧
      (readReg t 0x04).extractLsb' 9 13 = (readReg s 0x04).extractLsb' 9 13 ∧ t.aes = s.aes ∧ t.sha = s.sha

/-- No host access changes the pending command or its operands, whatever register it writes (20_memory.md R82, 43_control.md
R248). -/
def Obligations.HostAccessLeavesPendingCommand : Prop :=
  ∀ s a es, s.busy = true → s.inputs = .access a :: es →
    ∃ t, step s = .next t ∧ t.busy = true ∧ t.pending = s.pending ∧ t.snap = s.snap ∧ t.aes = s.aes ∧ t.sha = s.sha

/-- A command computes from the snapshot and the contexts alone: with other words in KEY, DIN and MSG it does the same, and it
leaves those registers as they are (20_memory.md R82, 70_reset_and_hazards.md R307). -/
def Obligations.CommandsComputeFromTheSnapshot : Prop :=
  ∀ i s t k d m, exec i s = .next t →
    exec i { s with regs := { s.regs with key := k, din := d, msg := m } } =
      .next { t with regs := { t.regs with key := k, din := d, msg := m } }

/-- Of two CMD writes with no wait between them, the second is dropped when the first has not completed, and runs when it has:
both are runs (70_reset_and_hazards.md R305). -/
def Obligations.BackToBackCommandsHaveBothOutcomes : Prop :=
  ∀ s c d es, s.busy = false → s.tblReady = true →
    (s.inputs = hostWr 0x00 c :: hostWr 0x00 d :: es →
      ∃ t, runSteps 2 s = .next t ∧ t.busy = true ∧ t.pending = c ∧ t.status.overrun = true) ∧
    (s.inputs = hostWr 0x00 c :: .idle :: hostWr 0x00 d :: es →
      ∃ t, runSteps 3 s = .next t ∧ t.busy = true ∧ t.pending = d ∧ t.status.overrun = s.status.overrun)

/-! ### The slave port -/

/-- R71: an access that is not 4 bytes wide, or whose address is not a multiple of 4, is answered with a bus error and changes
nothing. -/
def Obligations.RefusedAccessChangesNothing : Prop :=
  ∀ s a es, s.inputs = .access a :: es → (a.width ≠ 4 ∨ (Config.base + a.off.toNat) % 4 ≠ 0) →
    step s = .next { s with inputs := es, response := some .busError }

/-- R78: a read changes nothing but the port's answer and a second read gives the same answer, writing any register but CMD twice
is writing it once, and each write to CMD offers a command, so that the second finds the first pending. Beside them, an aligned
32-bit read answers with the register's word, and the words at the offsets of KEY, DIN, DOUT, MSG, DIGEST and RDATA are those
registers (10_state.md R22, R28 to R32, R35). -/
def Obligations.ReadsHaveNoSideEffectAndWritesRepeat : Prop :=
  (∀ s off w es, s.inputs = .access { op := .read, off := off, width := w } :: es →
    ∃ r, step s = .next { s with inputs := es, response := some r } ∧
      (w = 4 → off.toNat % 4 = 0 → r = .data (readReg s off.toNat)) ∧
      ∀ es', es = .access { op := .read, off := off, width := w } :: es' →
        step { s with inputs := es, response := some r } = .next { s with inputs := es', response := some r }) ∧
  (∀ s : State,
    (∀ k (h : k < 8), readReg s (0x10 + 4 * k) = s.regs.key[k]) ∧
    (∀ k (h : k < 4), readReg s (0x30 + 4 * k) = s.regs.din[k]) ∧
    (∀ k (h : k < 4), readReg s (0x40 + 4 * k) = s.regs.dout[k]) ∧
    (∀ k (h : k < 16), readReg s (0x50 + 4 * k) = s.regs.msg[k]) ∧
    (∀ k (h : k < 8), readReg s (0x90 + 4 * k) = s.regs.digest[k]) ∧
    readReg s 0xB0 = s.regs.rdata) ∧
  (∀ s off v es, off % 4 = 0 → 0x00 < off → off < 0x100 → s.inputs = hostWr off v :: hostWr off v :: es →
    ∃ t, step s = .next t ∧ step t = .next { t with inputs := es }) ∧
  (∀ s c es, s.busy = false → s.inputs = hostWr 0x00 c :: hostWr 0x00 c :: es →
    ∃ t u, step s = .next t ∧ t.status.overrun = s.status.overrun ∧ step t = .next u ∧ u.status.overrun = true)

/-- A word written to KEY, DIN or MSG is read back, no other register of the window changes, and neither does a pending command
(10_state.md R22, R28, R29, R31; 43_control.md R248). -/
def Obligations.OperandRegistersHoldWhatIsWritten : Prop :=
  ∀ s v es off, off % 4 = 0 → (0x10 ≤ off ∧ off < 0x40) ∨ (0x50 ≤ off ∧ off < 0x90) → s.inputs = hostWr off v :: es →
    ∃ t, step s = .next t ∧ readReg t off = v ∧
      (∀ o, o % 4 = 0 → o < 0x100 → o ≠ off → readReg t o = readReg s o) ∧
      t.busy = s.busy ∧ t.pending = s.pending ∧ t.snap = s.snap ∧ t.status = s.status ∧ t.aes = s.aes ∧ t.sha = s.sha

/-- R26, R27, R73: reserved offsets read 0 and ignore writes, the reserved bits of STATUS and CTRL read 0, a CTRL write sets IE
from bit 0 and ignores the others, IE resets to 0, and ID is constant. Beside them, writes to DOUT, DIGEST and RDATA are ignored and CMD reads 0
(10_state.md R22, R23). -/
def Obligations.ReadOnlyAndReservedBitsIgnoreWrites : Prop :=
  (∀ s off, off % 4 = 0 → 0xB4 ≤ off → off < 0x100 → readReg s off = 0) ∧
  (∀ s v es off, off % 4 = 0 →
    off = 0x0C ∨ (0x40 ≤ off ∧ off < 0x50) ∨ (0x90 ≤ off ∧ off < 0x100) → s.inputs = hostWr off v :: es →
    step s = .next { s with inputs := es, response := some .ack }) ∧
  (∀ s, (readReg s 0x04).getLsbD 3 = false ∧ ∀ k, 22 ≤ k → (readReg s 0x04).getLsbD k = false) ∧
  (∀ s, (readReg s 0x08).getLsbD 0 = s.regs.ie ∧ ∀ k, 1 ≤ k → (readReg s 0x08).getLsbD k = false) ∧
  (∀ s v es, s.inputs = hostWr 0x08 v :: es →
    step s = .next { s with regs := { s.regs with ie := v.getLsbD 0 }, inputs := es, response := some .ack }) ∧
  State.reset.regs.ie = false ∧
  (∀ s, readReg s 0x00 = 0 ∧ readReg s 0x0C = 0x41455343)

/-- R25: a STATUS write clears DONE and OVERRUN where it has ones, changes no other bit of STATUS and nothing else. -/
def Obligations.StatusWriteClearsDoneAndOverrun : Prop :=
  ∀ s v es, s.inputs = hostWr 0x04 v :: es →
    ∃ t, step s = .next t ∧ t.statusWord = s.statusWord &&& ~~~(v &&& 0x00000006) ∧
      t = { s with
            status := { s.status with done := t.status.done, overrun := t.status.overrun }
            inputs := es
            response := some .ack }

/-- A read of STATUS gives each field in its bits, with the codes of the tables (10_state.md R24, R33, R38; 60_exceptions.md
R261). -/
def Obligations.StatusReadGivesItsFields : Prop :=
  (∀ s es, s.inputs = hostRd 0x04 :: es →
    ∃ w, step s = .next { s with inputs := es, response := some (.data w) } ∧
      w.getLsbD 0 = s.busy ∧ w.getLsbD 1 = s.status.done ∧ w.getLsbD 2 = s.status.overrun ∧
      w.extractLsb' 4 4 = s.status.err.code ∧ w.getLsbD 8 = s.tblReady ∧
      (w.getLsbD 9 = true ↔ s.aes.nr ≠ .unkeyed) ∧ w.extractLsb' 10 2 = s.sha.state.code ∧
      (w.extractLsb' 12 4).toNat = s.aes.nr.num ∧ w.extractLsb' 16 6 = s.sha.count) ∧
  [ErrCode.none, .invalidKeyLength, .uninitializedContext, .bufferLengthMismatch, .counterOverflow, .illegalCommand,
    .argumentRange].map ErrCode.code = [0, 1, 2, 3, 4, 5, 6] ∧
  [ShaState.unstarted, .idle, .accum, .final].map ShaState.code = [0, 1, 2, 3] ∧
  [Rounds.unkeyed, .r10, .r12, .r14].map Rounds.num = [0, 10, 12, 14]

/-- R72: an access in the window reaches the port at its offset from BASE, an access outside it does not reach the core, and BASE
is a multiple of 0x100. -/
def Obligations.WindowIsDecodedFromBase : Prop :=
  Config.base % 0x100 = 0 ∧
  (∀ op off w, off < 0x100 →
    portEvent? op (Config.base + off) w = some (.access { op := op, off := BitVec.ofNat 8 off, width := w })) ∧
  (∀ op addr w, addr < Config.base ∨ Config.base + 0x100 ≤ addr → portEvent? op addr w = none)

/-! ### Errors, interrupt and frames -/

/-- R267: IRQ is CTRL.IE and STATUS.DONE, and exactly when it rises and exactly when it falls. -/
def Obligations.InterruptRisesAndFallsAsListed : Prop :=
  (∀ s : State, s.irq = true ↔ (readReg s 0x08).getLsbD 0 = true ∧ (readReg s 0x04).getLsbD 1 = true) ∧
  ∀ s t, step s = .next t →
    (s.irq = false →
      (t.irq = true ↔
        (s.regs.ie = true ∧ s.busy = true ∧ t.busy = false ∧ s.inputs.head? ≠ some .reset) ∨
        (s.status.done = true ∧ ∃ v es, s.inputs = hostWr 0x08 v :: es ∧ v.getLsbD 0 = true))) ∧
    (s.irq = true →
      (t.irq = false ↔
        (∃ v es, s.inputs = hostWr 0x04 v :: es ∧ v.getLsbD 1 = true) ∨
        (s.busy = false ∧ ∃ c es, s.inputs = hostWr 0x00 c :: es) ∨
        (∃ v es, s.inputs = hostWr 0x08 v :: es ∧ v.getLsbD 0 = false) ∨
        (∃ es, s.inputs = .reset :: es)))

/-- R262: a command that ends with an error changes ERR, DONE and BUSY, a refused AES_KEYSETUP sets `nr` to 0 as well, and nothing
else changes. -/
def Obligations.FailedCommandChangesOnlyStatus : Prop :=
  ∀ i s t, exec i s = .next t → t.status.err ≠ .none →
    ((∀ keybytes bitlen, i ≠ .aesKeysetup keybytes bitlen) →
      t = { s with status := { s.status with err := t.status.err, done := true }, busy := false }) ∧
    (∀ keybytes bitlen, i = .aesKeysetup keybytes bitlen →
      t = { s with
            status := { s.status with err := t.status.err, done := true }
            busy := false
            aes := { s.aes with nr := .unkeyed } })

/-- Each command can end only with the errors its row lists, and IllegalCommand comes exactly from words the decoder refuses
(60_exceptions.md R263). -/
def Obligations.CommandsRaiseOnlyTheirErrors : Prop :=
  (∀ i s t, exec i s = .next t →
    t.status.err ∈ (match i with
      | .nop => [ErrCode.none]
      | .aesKeysetup _ _ => [.none, .invalidKeyLength]
      | .aesEncrypt => [.none, .uninitializedContext]
      | .aesDecrypt => [.none, .uninitializedContext]
      | .aesRkread _ _ => [.none, .uninitializedContext, .argumentRange]
      | .shaStart => [.none]
      | .shaUpdate _ => [.none, .uninitializedContext, .bufferLengthMismatch, .counterOverflow]
      | .shaFinish => [.none, .uninitializedContext]
      | .tblRead _ _ => [.none, .argumentRange])) ∧
  (∀ s t, complete s = .next t → (t.status.err = .illegalCommand ↔ illegalWord s.pending))

/-- Where each command ends with an error of its operands or of its context: context state first, whatever the operands, then the
operand range, then the counter (60_exceptions.md R264; 40_gf_tables.md R125; 41_aes.md R162, R165, R171; 42_sha256.md R207,
R208, R210). Each such completion changes ERR, DONE and BUSY alone. -/
def Obligations.ErrorsComeInTheirOrder : Prop :=
  let failed (s : State) (e : ErrCode) : State := { s with status := { s.status with err := e, done := true }, busy := false }
  (∀ s, s.aes.nr = .unkeyed →
    exec .aesEncrypt s = .next (failed s .uninitializedContext) ∧
    exec .aesDecrypt s = .next (failed s .uninitializedContext) ∧
    ∀ sched index, exec (.aesRkread sched index) s = .next (failed s .uninitializedContext)) ∧
  (∀ s sched index, s.aes.nr ≠ .unkeyed → sched > 1 ∨ index ≥ 4 * (s.aes.nr.num + 1) →
    exec (.aesRkread sched index) s = .next (failed s .argumentRange)) ∧
  (∀ s, s.sha.state = .unstarted ∨ s.sha.state = .final →
    exec .shaFinish s = .next (failed s .uninitializedContext) ∧
    ∀ len, exec (.shaUpdate len) s = .next (failed s .uninitializedContext)) ∧
  (∀ s len, s.sha.state = .idle ∨ s.sha.state = .accum →
    (64 < len → exec (.shaUpdate len) s = .next (failed s .bufferLengthMismatch)) ∧
    (len ≤ 64 → s.sha.total.toNat + len > 2 ^ 61 - 1 → exec (.shaUpdate len) s = .next (failed s .counterOverflow))) ∧
  (∀ s id i, id > 16 ∨ (id = 16 ∧ i > 9) ∨ (id < 16 ∧ i > 255) →
    exec (.tblRead id i) s = .next (failed s .argumentRange))

/-- R266: every step of every state, and every command on every state, leads to a next state. -/
def Obligations.EveryStepLeadsToANextState : Prop :=
  (∀ s, ∃ t, step s = .next t) ∧ ∀ i s, ∃ t, exec i s = .next t

/-- Every command, whether or not it succeeds, completes with DONE at 1 and BUSY at 0, and leaves OVERRUN, CTRL, the operand
registers, the tables' flag and the port alone (43_control.md R243; 10_state.md R28, R29, R31). That it leaves the taken word
`pending` and the snapshot as they were is the model's choice (log entry 6): the spec calls them meaningless once BUSY is 0. -/
def Obligations.CompletionKeepsTheHostSide : Prop :=
  ∀ i s t, exec i s = .next t →
    t.status.done = true ∧ t.busy = false ∧ t.status.overrun = s.status.overrun ∧ t.regs.ie = s.regs.ie ∧
      t.regs.key = s.regs.key ∧ t.regs.din = s.regs.din ∧ t.regs.msg = s.regs.msg ∧ t.tblReady = s.tblReady ∧
      t.pending = s.pending ∧ t.snap = s.snap ∧ t.inputs = s.inputs ∧ t.response = s.response

/-- Which command may write which output register and which context; each is left alone by every other command (10_state.md
R30, R32, R33, R35; 42_sha256.md R200). -/
def Obligations.OnlyNamedCommandsWriteOutputsAndContexts : Prop :=
  ∀ i s t, exec i s = .next t →
    (i ≠ .aesEncrypt → i ≠ .aesDecrypt → t.regs.dout = s.regs.dout) ∧
    (i ≠ .shaFinish → t.regs.digest = s.regs.digest) ∧
    ((∀ a b, i ≠ .tblRead a b) → (∀ a b, i ≠ .aesRkread a b) → t.regs.rdata = s.regs.rdata) ∧
    ((∀ a b, i ≠ .aesKeysetup a b) → t.aes = s.aes) ∧
    (i ≠ .shaStart → (∀ n, i ≠ .shaUpdate n) → i ≠ .shaFinish → t.sha = s.sha)

/-- R168: the cipher commands change neither `nr`, `erk` nor `drk`, and repeating one with the same DIN, whatever KEY and MSG then
hold, gives the same DOUT. -/
def Obligations.CipherCommandsKeepTheKeyAndRepeat : Prop :=
  ∀ i s t, i = .aesEncrypt ∨ i = .aesDecrypt → exec i s = .next t →
    t.aes.nr = s.aes.nr ∧ t.aes.erk = s.aes.erk ∧ t.aes.drk = s.aes.drk ∧
      ∀ sn : Snapshot, sn.din = s.snap.din → ∃ u, exec i { t with snap := sn } = .next u ∧ u.regs.dout = t.regs.dout

/-- NOP completes with success and has no effect on a context, an output or an operand (43_control.md R245, 30_encoding.md
R96). -/
def Obligations.NopDoesNothingButComplete : Prop :=
  (∀ s, exec .nop s = .next { s with status := { s.status with err := .none, done := true }, busy := false }) ∧
  (∀ es, ∃ t, runSteps 2 { State.reset with tblReady := true, inputs := (hostCmd (.command .nop)).event :: .idle :: es } = .next t ∧
    t.statusWord = 0x00000102)

/-! ### GF(2^8) and the tables -/

/-- R112: the multiplier gives the shift-and-add product, and that is the sum of the logarithms' power. -/
def Obligations.MultiplierIsTheFieldProduct : Prop :=
  ∀ a b, gmul a b = Fips197.mul a b ∧
    Fips197.mul a b = if a = 0 ∨ b = 0 then 0x00 else pow (((log a).toNat + (log b).toNat) % 255)

/-- R111, R113, R114: doubling, the powers of {03}, and their logarithms with log[0] = 0. -/
def Obligations.PowAndLogTables : Prop :=
  (∀ a, (xtime a).toNat = if a.toNat < 128 then 2 * a.toNat else (2 * a.toNat - 256) ^^^ 0x1B) ∧
  (pow 0 = 0x01 ∧ ∀ i < 255, pow (i + 1) = pow i ^^^ xtime (pow i)) ∧
  (log 0x00 = 0x00 ∧ ∀ i < 255, log (pow i) = BitVec.ofNat 8 i)

/-- R115, R116, R123: the affine transform of the inverse; inv_sbox is the inverse of sbox on both sides, so sbox is a bijection;
and the T-tables are byte rotations of ft0 and rt0. -/
def Obligations.SboxTables : Prop :=
  (∀ i : Byte, ∀ x, x = (if i = 0 then 0x00 else pow (255 - (log i).toNat)) →
    sbox i = x ^^^ x.rotateLeft 1 ^^^ x.rotateLeft 2 ^^^ x.rotateLeft 3 ^^^ x.rotateLeft 4 ^^^ 0x63) ∧
  (∀ i, invSbox (sbox i) = i ∧ sbox (invSbox i) = i) ∧
  (∀ k i, 1 ≤ k → k ≤ 3 → ft k i = (ft 0 i).rotateRight (8 * k) ∧ rt k i = (rt 0 i).rotateRight (8 * k))

/-- R117 to R122: the T-tables are columns of field products of S-box entries, rotated right by 8k, kt undoes the S-box, and
rcon holds the powers of {02} in the high byte. -/
def Obligations.TransformTables : Prop :=
  (∀ i k, k ≤ 3 →
    ft k i =
      (wordOf (Fips197.mul 0x02 (sbox i)) (sbox i) (sbox i) (Fips197.mul 0x03 (sbox i))).rotateRight (8 * k) ∧
    rt k i =
      (wordOf (Fips197.mul 0x0E (invSbox i)) (Fips197.mul 0x09 (invSbox i)) (Fips197.mul 0x0D (invSbox i))
        (Fips197.mul 0x0B (invSbox i))).rotateRight (8 * k) ∧
    kt k i =
      (wordOf (Fips197.mul 0x0E i) (Fips197.mul 0x09 i) (Fips197.mul 0x0D i) (Fips197.mul 0x0B i)).rotateRight (8 * k) ∧
    kt k i = rt k (sbox i)) ∧
  (List.range 10).map rcon =
    [0x01000000, 0x02000000, 0x04000000, 0x08000000, 0x10000000, 0x20000000, 0x40000000, 0x80000000, 0x1B000000, 0x36000000]

/-- TBL_READ in range puts the zero-extended entry of the named table in RDATA and changes nothing else but the status
(40_gf_tables.md R125, R126). -/
def Obligations.TblReadReturnsTheEntry : Prop :=
  ∀ s id i, (id < 16 ∧ i ≤ 255) ∨ (id = 16 ∧ i ≤ 9) →
    ∃ w,
      ([(pow i).zeroExtend 32, (log (.ofNat 8 i)).zeroExtend 32, (sbox (.ofNat 8 i)).zeroExtend 32,
        (invSbox (.ofNat 8 i)).zeroExtend 32, ft 0 (.ofNat 8 i), ft 1 (.ofNat 8 i), ft 2 (.ofNat 8 i), ft 3 (.ofNat 8 i),
        rt 0 (.ofNat 8 i), rt 1 (.ofNat 8 i), rt 2 (.ofNat 8 i), rt 3 (.ofNat 8 i), kt 0 (.ofNat 8 i), kt 1 (.ofNat 8 i),
        kt 2 (.ofNat 8 i), kt 3 (.ofNat 8 i), rcon i] : List Word)[id]? = some w ∧
      exec (.tblRead id i) s = .next
        { s with
          regs := { s.regs with rdata := w }
          status := { s.status with err := .none, done := true }
          busy := false }

/-! ### AES -/

/-- R151 to R153: SubWord acts byte by byte, RotWord moves each byte one place left and so commutes with it, and IMC is
InvMixColumns of the word's column. -/
def Obligations.WordPrimitives : Prop :=
  (∀ a b c d, subWord (wordOf a b c d) = wordOf (sbox a) (sbox b) (sbox c) (sbox d)) ∧
  (∀ a b c d, rotWord (wordOf a b c d) = wordOf b c d a) ∧
  (∀ w, subWord (rotWord w) = rotWord (subWord w)) ∧
  (∀ w, imc w = kt 0 (byteAt w 0) ^^^ kt 1 (byteAt w 1) ^^^ kt 2 (byteAt w 2) ^^^ kt 3 (byteAt w 3) ∧
    Fips197.invMixColumns #v[w, w, w, w] = #v[imc w, imc w, imc w, imc w])

/-- R155 to R158: with a valid key length, AES_KEYSETUP loads the key, makes every later word of the encryption schedule from the
words before it, derives the decryption schedule, leaves the words above both alone, and sets `nr`; nothing else changes but the
status. -/
def Obligations.KeysetupExpandsTheKey : Prop :=
  ∀ s nk n, (nk = 4 ∧ n = 10) ∨ (nk = 6 ∧ n = 12) ∨ (nk = 8 ∧ n = 14) →
    ∃ a : AesContext,
      exec (.aesKeysetup (4 * nk) (32 * nk)) s = .next
        { s with aes := a, status := { s.status with err := .none, done := true }, busy := false } ∧
      a.nr.num = n ∧
      (∀ i < nk, wordAt a.erk i = wordAt s.snap.key i) ∧
      (∀ i, nk ≤ i → i < 4 * (n + 1) →
        wordAt a.erk i = wordAt a.erk (i - nk) ^^^
          (if i % nk = 0 then subWord (rotWord (wordAt a.erk (i - 1))) ^^^ rcon (i / nk - 1)
          else if nk = 8 ∧ i % 8 = 4 then subWord (wordAt a.erk (i - 1))
          else wordAt a.erk (i - 1))) ∧
      (∀ j < 4, wordAt a.drk j = wordAt a.erk (4 * n + j) ∧ wordAt a.drk (4 * n + j) = wordAt a.erk j) ∧
      (∀ r j, 1 ≤ r → r ≤ n - 1 → j < 4 → wordAt a.drk (4 * r + j) = imc (wordAt a.erk (4 * (n - r) + j))) ∧
      (∀ i, 4 * (n + 1) ≤ i → wordAt a.erk i = wordAt s.aes.erk i ∧ wordAt a.drk i = wordAt s.aes.drk i)

/-- R159: an AES_KEYSETUP with a bad length sets `nr` to 0, writes no round-key word and completes with InvalidKeyLength; while the
core is unkeyed the other AES commands raise UninitializedContext; and no step keys it again but the completion of an
AES_KEYSETUP with a good length. -/
def Obligations.RefusedKeysetupUnkeysTheCore : Prop :=
  (∀ s keybytes bitlen, ¬((bitlen = 128 ∨ bitlen = 192 ∨ bitlen = 256) ∧ keybytes = bitlen / 8) →
    exec (.aesKeysetup keybytes bitlen) s = .next
      { s with
        aes := { s.aes with nr := .unkeyed }
        status := { s.status with err := .invalidKeyLength, done := true }
        busy := false }) ∧
  (∀ s i, s.aes.nr = .unkeyed → i = .aesEncrypt ∨ i = .aesDecrypt ∨ (∃ sched index, i = .aesRkread sched index) →
    ∃ t, exec i s = .next t ∧ t.status.err = .uninitializedContext ∧ t.aes = s.aes) ∧
  (∀ s t, s.aes.nr = .unkeyed → step s = .next t → t.aes.nr ≠ .unkeyed →
    ∃ keybytes bitlen, decode s.pending = .ok (.aesKeysetup keybytes bitlen) ∧
      (bitlen = 128 ∨ bitlen = 192 ∨ bitlen = 256) ∧ keybytes = bitlen / 8)

/-- The four T-table rounds are the FIPS-197 rounds on the same state and round key, the inverse ones those of the equivalent
inverse cipher (41_aes.md R160, R161, R163, R164). -/
def Obligations.TableRoundsAreFips197Rounds : Prop :=
  ∀ x k,
    fRound x k = Fips197.addKey (Fips197.mixColumns (Fips197.shiftRows (Fips197.subBytes x))) k ∧
    fFinal x k = Fips197.addKey (Fips197.shiftRows (Fips197.subBytes x)) k ∧
    rRound x k = Fips197.addKey (Fips197.invMixColumns (Fips197.invShiftRows (Fips197.invSubBytes x))) k ∧
    rFinal x k = Fips197.addKey (Fips197.invShiftRows (Fips197.invSubBytes x)) k

/-- AES_ENCRYPT on a keyed core completes, puts the FIPS-197 cipher of the input block under the encryption schedule in DOUT, and
changes nothing else but the status (41_aes.md R162, R167). -/
def Obligations.EncryptComputesTheFips197Cipher : Prop :=
  ∀ s, s.aes.nr ≠ .unkeyed →
    exec .aesEncrypt s = .next
      { s with
        regs := { s.regs with dout := Fips197.cipher s.aes.nr.num s.aes.erk s.snap.din }
        status := { s.status with err := .none, done := true }
        busy := false }

/-- AES_DECRYPT on a keyed core completes, writes DOUT and changes nothing else but the status; when the core holds the
schedules of one key, DOUT gets the block whose FIPS-197 cipher is the input block (41_aes.md R165, R167). -/
def Obligations.DecryptInvertsTheFips197Cipher : Prop :=
  ∀ s, s.aes.nr ≠ .unkeyed →
    ∃ d, exec .aesDecrypt s = .next
        { s with
          regs := { s.regs with dout := d }
          status := { s.status with err := .none, done := true }
          busy := false } ∧
      (s.aes.scheduled → Fips197.cipher s.aes.nr.num s.aes.erk d = s.snap.din)

/-- R166: for every valid key and every block p, with no command between the two, AES_DECRYPT of AES_ENCRYPT(p) gives p. -/
def Obligations.DecryptUndoesEncrypt : Prop :=
  ∀ s bitlen (p : Block), bitlen = 128 ∨ bitlen = 192 ∨ bitlen = 256 →
    ∃ a e d, exec (.aesKeysetup (bitlen / 8) bitlen) s = .next a ∧
      exec .aesEncrypt { a with snap := { a.snap with din := p } } = .next e ∧
      exec .aesDecrypt { e with snap := { e.snap with din := e.regs.dout } } = .next d ∧
      d.status.err = .none ∧ d.regs.dout = p

/-- AES_RKREAD in range puts the named word of the named schedule in RDATA and changes nothing else but the status (41_aes.md
R171). -/
def Obligations.RkreadReturnsTheRoundKeyWord : Prop :=
  ∀ s sched index, s.aes.nr ≠ .unkeyed → sched ≤ 1 → index < 4 * (s.aes.nr.num + 1) →
    ∃ w, exec (.aesRkread sched index) s = .next
        { s with
          regs := { s.regs with rdata := w }
          status := { s.status with err := .none, done := true }
          busy := false } ∧
      (sched = 0 → s.aes.erk[index]? = some w) ∧ (sched = 1 → s.aes.drk[index]? = some w)

/-! ### SHA-256 -/

/-- R201: the six word functions, with `rotr32` the cyclic rotation of R10. -/
def Obligations.ShaWordFunctions : Prop :=
  ∀ x y z : Word,
    smallSigma0 x = x.rotateRight 7 ^^^ x.rotateRight 18 ^^^ (x >>> 3) ∧
    smallSigma1 x = x.rotateRight 17 ^^^ x.rotateRight 19 ^^^ (x >>> 10) ∧
    bigSigma0 x = x.rotateRight 2 ^^^ x.rotateRight 13 ^^^ x.rotateRight 22 ∧
    bigSigma1 x = x.rotateRight 6 ^^^ x.rotateRight 11 ^^^ x.rotateRight 25 ∧
    ch x y z = (x &&& y) ^^^ (~~~x &&& z) ∧
    maj x y z = (x &&& y) ^^^ (x &&& z) ^^^ (y &&& z)

/-- R204: the message schedule of a 64-byte block: the block's words big-endian, then 48 words made from the words before
them. -/
def Obligations.MessageScheduleRecurrence : Prop :=
  ∀ m : List Byte, m.length = 64 →
    (messageSchedule m).length = 64 ∧
    (∀ t < 16, ∃ b0 b1 b2 b3, m[4 * t]? = some b0 ∧ m[4 * t + 1]? = some b1 ∧ m[4 * t + 2]? = some b2 ∧
      m[4 * t + 3]? = some b3 ∧ (messageSchedule m)[t]? = some (wordOf b0 b1 b2 b3)) ∧
    (∀ t, 16 ≤ t → t < 64 →
      (messageSchedule m).getD t 0 =
        smallSigma1 ((messageSchedule m).getD (t - 2) 0) + (messageSchedule m).getD (t - 7) 0 +
          smallSigma0 ((messageSchedule m).getD (t - 15) 0) + (messageSchedule m).getD (t - 16) 0)

/-- R205: the compression of a 64-byte block. The working variables start as the eight state words, go through 64 rounds, each with
its constant and its word of the message schedule (R204), and are added to the state words. The constants are tied to what R202
defines them as: each is the first 32 bits behind the point of the cube root of the next prime, c standing before the point. -/
def Obligations.CompressionRunsTheRounds : Prop :=
  (shaK.length = 64 ∧
    ∀ pk ∈ ([2, 3, 5, 7, 11, 13, 17, 19, 23, 29, 31, 37, 41, 43, 47, 53, 59, 61, 67, 71, 73, 79, 83, 89, 97, 101, 103, 107, 109,
        113, 127, 131] ++
      [137, 139, 149, 151, 157, 163, 167, 173, 179, 181, 191, 193, 197, 199, 211, 223, 227, 229, 233, 239, 241, 251, 257, 263,
        269, 271, 277, 281, 283, 293, 307, 311] : List Nat).zip shaK,
      ∃ c < 8, (c * 2 ^ 32 + pk.2.toNat) ^ 3 ≤ pk.1 * 2 ^ 96 ∧ pk.1 * 2 ^ 96 < (c * 2 ^ 32 + pk.2.toNat + 1) ^ 3) ∧
  ∀ (h : Vector Word 8) (m : List Byte), m.length = 64 →
    ∃ a b c d e f g i : Nat → Word,
      #v[a 0, b 0, c 0, d 0, e 0, f 0, g 0, i 0] = h ∧
      (∀ t < 64, ∃ t1 t2 : Word,
        t1 = i t + bigSigma1 (e t) + ch (e t) (f t) (g t) + shaK.getD t 0 + (messageSchedule m).getD t 0 ∧
        t2 = bigSigma0 (a t) + maj (a t) (b t) (c t) ∧
        i (t + 1) = g t ∧ g (t + 1) = f t ∧ f (t + 1) = e t ∧ e (t + 1) = d t + t1 ∧
        d (t + 1) = c t ∧ c (t + 1) = b t ∧ b (t + 1) = a t ∧ a (t + 1) = t1 + t2) ∧
      compress h m =
        #v[h[0] + a 64, h[1] + b 64, h[2] + c 64, h[3] + d 64, h[4] + e 64, h[5] + f 64, h[6] + g 64, h[7] + i 64]

/-- SHA_START on every state completes, makes the context hold the empty message, and changes nothing else but the status, DIGEST
included (42_sha256.md R203, R206). -/
def Obligations.ShaStartHoldsTheEmptyMessage : Prop :=
  ∀ s, ∃ c : ShaContext,
    exec .shaStart s = .next { s with sha := c, status := { s.status with err := .none, done := true }, busy := false } ∧
      c.h = #v[0x6a09e667, 0xbb67ae85, 0x3c6ef372, 0xa54ff53a, 0x510e527f, 0x9b05688c, 0x1f83d9ab, 0x5be0cd19] ∧
      c.total = 0 ∧ c.totalLo = 0 ∧ c.totalHi = 0 ∧ c.count = 0 ∧ c.state = .idle ∧ Sha256.Holds c []

/-- SHA_UPDATE on a context that holds a message completes and makes it hold that message with the first LEN bytes of the window
behind it; nothing else changes but the status. With LEN = 0 the context itself is unchanged (42_sha256.md R207, R209). -/
def Obligations.ShaUpdateAbsorbsTheWindow : Prop :=
  ∀ s m len, Sha256.Holds s.sha m → len ≤ 64 → m.length + len ≤ 2 ^ 61 - 1 →
    ∃ c : ShaContext,
      exec (.shaUpdate len) s = .next
        { s with sha := c, status := { s.status with err := .none, done := true }, busy := false } ∧
      Sha256.Holds c (m ++ s.snap.message len) ∧ (len = 0 → c = s.sha)

/-- SHA_FINISH on a context that holds a message completes, puts the message's SHA-256 digest in DIGEST and in `H`, makes the
context FINAL with `sha_count` 0 and `total` unchanged, and changes nothing else but the status (42_sha256.md R210, R211). -/
def Obligations.ShaFinishOutputsTheDigest : Prop :=
  ∀ s m, Sha256.Holds s.sha m →
    ∃ c : ShaContext,
      exec .shaFinish s = .next
        { s with
          regs := { s.regs with digest := Sha256.digest m }
          sha := c
          status := { s.status with err := .none, done := true }
          busy := false } ∧
      c.h = Sha256.digest m ∧ c.total = s.sha.total ∧ c.count = 0 ∧ c.state = .final

/-- R212, R213: from any state, after SHA_START and any SHA_UPDATEs, those with LEN above 64 failing, SHA_FINISH outputs the SHA-256
of the bytes of the successful ones since that SHA_START, in order: however they were split, and whatever the context held
before. -/
def Obligations.DigestDependsOnlyOnTheBytes : Prop :=
  ∀ s us, (Sha256.updateBytes us).length ≤ 2 ^ 61 - 1 →
    ∃ a b c, exec .shaStart s = .next a ∧ Sha256.updates us a = .next b ∧ exec .shaFinish b = .next c ∧
      c.status.err = .none ∧ c.regs.digest = Sha256.digest (Sha256.updateBytes us) ∧ c.sha.h = c.regs.digest

/-- R214: the transitions of `sha_state`, command by command, on every state. -/
def Obligations.ShaStateTransitions : Prop :=
  ∀ s,
    (∃ t, exec .shaStart s = .next t ∧ t.sha.state = .idle ∧ t.status.err = .none) ∧
    (s.sha.state = .unstarted ∨ s.sha.state = .final →
      (∀ len, ∃ t, exec (.shaUpdate len) s = .next t ∧ t.sha = s.sha ∧ t.status.err = .uninitializedContext) ∧
      ∃ t, exec .shaFinish s = .next t ∧ t.sha = s.sha ∧ t.status.err = .uninitializedContext) ∧
    (s.sha.state = .idle ∨ s.sha.state = .accum →
      (∃ t, exec .shaFinish s = .next t ∧ t.sha.state = .final ∧ t.status.err = .none) ∧
      (s.sha.total.toNat ≤ 2 ^ 61 - 1 →
        ∃ t, exec (.shaUpdate 0) s = .next t ∧ t.sha = s.sha ∧ t.status.err = .none) ∧
      (∀ len, 0 < len → len ≤ 64 → ∃ t, exec (.shaUpdate len) s = .next t ∧
        if s.sha.total.toNat + len ≤ 2 ^ 61 - 1 then t.sha.state = .accum ∧ t.status.err = .none
        else t.sha = s.sha ∧ t.status.err = .counterOverflow) ∧
      (∀ len, 64 < len → ∃ t, exec (.shaUpdate len) s = .next t ∧ t.sha = s.sha ∧ t.status.err = .bufferLengthMismatch)) ∧
    (s.sha.state = .idle → s.sha.consistent → ∀ len ≤ 64, ∃ t, exec (.shaUpdate len) s = .next t ∧ t.status.err = .none)

/-- R208: the byte counter never wraps: SHA_UPDATE raises CounterOverflow when the sum would exceed SHA_MAX_BYTES, and then changes
nothing but ERR, DONE and BUSY; whenever it succeeds, the new value is the sum of the old value and LEN, within SHA_MAX_BYTES, so that eight times it
fits in 64 bits. The low word carries into the high word (R37). -/
def Obligations.LengthCounterNeverWraps : Prop :=
  (∀ s len, s.sha.state = .idle ∨ s.sha.state = .accum → len ≤ 64 → s.sha.total.toNat + len > 2 ^ 61 - 1 →
    exec (.shaUpdate len) s = .next
      { s with status := { s.status with err := .counterOverflow, done := true }, busy := false }) ∧
  ∀ s t len, exec (.shaUpdate len) s = .next t →
    (t.status.err = .none →
      t.sha.total.toNat = s.sha.total.toNat + len ∧ t.sha.total.toNat ≤ 2 ^ 61 - 1 ∧ 8 * t.sha.total.toNat < 2 ^ 64 ∧
        t.sha.totalHi.toNat * 2 ^ 32 + t.sha.totalLo.toNat =
          (s.sha.totalHi.toNat * 2 ^ 32 + s.sha.totalLo.toNat) + len) ∧
    (t.status.err ≠ .none → t.sha = s.sha)

/-- `sha.bytes S` at the port, with no command pending and a context that holds m, leaves a context that holds m with S behind it,
and no error or overrun (30_encoding.md R98, R99): in every run of that host program, wherever the core steps between the host's
accesses, and however often each `wait` reads STATUS before a read returns BUSY = 0 (log entry 1; 70_reset_and_hazards.md R310). -/
def Obligations.ShaBytesAbsorbsAnyLength : Prop :=
  ∀ s m b, s.busy = false → s.status.err = .none → Sha256.Holds s.sha m → m.length + b.length ≤ 2 ^ 61 - 1 →
    hostPlays s.inputs (hostShaBytes b) s = true →
      ∃ t, runSteps s.inputs.length s = .next t ∧ Sha256.Holds t.sha (m ++ b) ∧ t.inputs = [] ∧ t.busy = false ∧
        t.status.err = .none ∧ t.status.overrun = s.status.overrun ∧ t.aes = s.aes ∧ t.regs.digest = s.regs.digest

/-- Published vectors: the key of FIPS-197 C.1 gives the published ciphertext and decryption the plaintext back, the key of A.1
gives the published last round-key word, and the empty message and abc have the published digests (95_test_vectors.md V-AES-1,
V-AES-5, V-SHA-1, V-SHA-2). -/
def Obligations.PublishedVectors : Prop :=
  let expand (k : Vector Word 8) := expandKey 4 10 { Snapshot.reset with key := k } (Vector.replicate 60 0)
  let e := expand #v[0x00010203, 0x04050607, 0x08090A0B, 0x0C0D0E0F, 0, 0, 0, 0]
  encryptBlock 10 e #v[0x00112233, 0x44556677, 0x8899AABB, 0xCCDDEEFF] = #v[0x69C4E0D8, 0x6A7B0430, 0xD8CDB780, 0x70B4C55A] ∧
  decryptBlock 10 (deriveDecryptionKeys 10 e (Vector.replicate 60 0)) #v[0x69C4E0D8, 0x6A7B0430, 0xD8CDB780, 0x70B4C55A] =
    #v[0x00112233, 0x44556677, 0x8899AABB, 0xCCDDEEFF] ∧
  wordAt (expand #v[0x2B7E1516, 0x28AED2A6, 0xABF71588, 0x09CF4F3C, 0, 0, 0, 0]) 43 = 0xB6630CA6 ∧
  Sha256.digest [] =
    #v[0xe3b0c442, 0x98fc1c14, 0x9afbf4c8, 0x996fb924, 0x27ae41e4, 0x649b934c, 0xa495991b, 0x7852b855] ∧
  Sha256.digest [0x61, 0x62, 0x63] =
    #v[0xba7816bf, 0x8f01cfea, 0x414140de, 0x5dae2223, 0xb00361a3, 0x96177a9c, 0xb410ff61, 0xf20015ad]

/-! ### Reset, the invariant and what cannot be observed -/

/-- R300, R302: reset asserted in any state, also with a command pending or the tables not ready, leaves the values of the rule, and
IRQ low; so does `State.reset`, which power-up is. -/
def Obligations.ResetGivesTheResetValues : Prop :=
  let isReset (s : State) : Prop :=
    (∀ off, off % 4 = 0 → off < 0x100 → readReg s off = if off = 0x0C then 0x41455343 else 0) ∧
    s.status.done = false ∧ s.status.overrun = false ∧ s.status.err = .none ∧ s.regs.ie = false ∧ s.tblReady = false ∧
    s.aes.nr = .unkeyed ∧ (∀ i, wordAt s.aes.erk i = 0 ∧ wordAt s.aes.drk i = 0) ∧
    (∀ i, wordAt s.sha.h i = 0) ∧ s.sha.total = 0 ∧ s.sha.count = 0 ∧ s.sha.state = .unstarted ∧ s.busy = false ∧
    s.irq = false
  isReset State.reset ∧ ∀ s es, s.inputs = .reset :: es → ∃ t, step s = .next t ∧ isReset t ∧ t.inputs = es

/-- The invariant holds at reset (of 10_state.md R34, R37 and 43_control.md R241, R244). -/
def Obligations.InvariantHoldsAtReset : Prop := CoreInvariant State.reset

/-- Every step keeps the invariant: a pending command has DONE and ERR clear, nothing has completed while the tables are not ready,
a keyed core holds the schedules of one key, the SHA counts agree with the state, and in FINAL the digest registers hold the hash
state. -/
def Obligations.StepKeepsTheInvariant : Prop :=
  ∀ s t, CoreInvariant s → step s = .next t → CoreInvariant t

/-- States that differ only in what nothing can observe answer alike and stay so: round-key words out of reach, buffer bytes above
the count, a hash state that no command reads, the pending word and snapshot while nothing is pending (10_state.md R34, R39, R40;
42_sha256.md R215; 70_reset_and_hazards.md R301). So the values log entries 6 to 9 give them show in no run. -/
def Obligations.UnobservableStateNeverShows : Prop :=
  ∀ s t s', s.Same t → step s = .next s' →
    ∃ t', step t = .next t' ∧ s'.Same t' ∧ t'.response = s'.response ∧ t'.irq = s'.irq ∧
      ∀ off, readReg t' off = readReg s' off

/-- A host that keeps its duties never sees a dropped command or a bus error (70_reset_and_hazards.md R311, items 1 and 5). -/
def Obligations.DutifulHostSeesNoOverrunOrBusError : Prop :=
  ∀ s t, s.clean → s.dutiful → step s = .next t → t.clean
end

