-- ==== Sys2Proof/Laws/Bits.lean ====
section
/-! SUPPORT. The laws of bytes and words: taking a word apart and putting it together, rotations, and reading a store of words
after a write. -/

namespace Sys2Proof.Machine

theorem getLsbD_byteAt (w : Word) (k i : Nat) : (byteAt w k).getLsbD i = (decide (i < 8) && w.getLsbD (24 - 8 * k + i)) := by
  simp [byteAt, BitVec.getLsbD_extractLsb']

theorem getLsbD_wordOf (a b c d : Byte) (i : Nat) :
    (wordOf a b c d).getLsbD i =
      if i < 8 then d.getLsbD i else if i < 16 then c.getLsbD (i - 8) else if i < 24 then b.getLsbD (i - 16)
      else a.getLsbD (i - 24) := by
  simp only [wordOf, BitVec.getLsbD_append]
  by_cases h1 : i < 8
  · simp [h1]
  · by_cases h2 : i < 16
    · simp [h1, h2, show i - 8 < 8 by omega]
    · by_cases h3 : i < 24
      · simp [h1, h2, h3, show ¬ i - 8 < 8 by omega, show i - 8 - 8 = i - 16 by omega, show i - 16 < 8 by omega]
      · simp [h1, h2, h3, show ¬ i - 8 < 8 by omega, show ¬ i - 8 - 8 < 8 by omega, show i - 8 - 8 - 8 = i - 24 by omega]

@[simp] theorem byteAt_wordOf_zero (a b c d : Byte) : byteAt (wordOf a b c d) 0 = a := by
  apply BitVec.eq_of_getLsbD_eq
  intro i hi
  rw [getLsbD_byteAt, getLsbD_wordOf, if_neg (by omega), if_neg (by omega), if_neg (by omega), decide_eq_true hi,
    Bool.true_and]
  congr 1
  omega

@[simp] theorem byteAt_wordOf_one (a b c d : Byte) : byteAt (wordOf a b c d) 1 = b := by
  apply BitVec.eq_of_getLsbD_eq
  intro i hi
  rw [getLsbD_byteAt, getLsbD_wordOf, if_neg (by omega), if_neg (by omega), if_pos (by omega), decide_eq_true hi,
    Bool.true_and]
  congr 1
  omega

@[simp] theorem byteAt_wordOf_two (a b c d : Byte) : byteAt (wordOf a b c d) 2 = c := by
  apply BitVec.eq_of_getLsbD_eq
  intro i hi
  rw [getLsbD_byteAt, getLsbD_wordOf, if_neg (by omega), if_pos (by omega), decide_eq_true hi, Bool.true_and]
  congr 1
  omega

@[simp] theorem byteAt_wordOf_three (a b c d : Byte) : byteAt (wordOf a b c d) 3 = d := by
  apply BitVec.eq_of_getLsbD_eq
  intro i hi
  rw [getLsbD_byteAt, getLsbD_wordOf, if_pos (by omega), decide_eq_true hi, Bool.true_and]
  congr 1
  omega

/-- A word is its four bytes. -/
theorem wordOf_byteAt (w : Word) : wordOf (byteAt w 0) (byteAt w 1) (byteAt w 2) (byteAt w 3) = w := by
  apply BitVec.eq_of_getLsbD_eq
  intro i hi
  simp only [getLsbD_wordOf, getLsbD_byteAt]
  by_cases h1 : i < 8
  · simp [h1]
  · by_cases h2 : i < 16
    · simp [h1, h2, show i - 8 < 8 by omega, show 8 + (i - 8) = i by omega]
    · by_cases h3 : i < 24
      · simp [h1, h2, h3, show i - 16 < 8 by omega, show 16 + (i - 16) = i by omega]
      · simp [h1, h2, h3, show i - 24 < 8 by omega, show 24 + (i - 24) = i by omega]

/-- Two words with the same four bytes are the same word. -/
theorem word_ext {w v : Word} (h0 : byteAt w 0 = byteAt v 0) (h1 : byteAt w 1 = byteAt v 1) (h2 : byteAt w 2 = byteAt v 2)
    (h3 : byteAt w 3 = byteAt v 3) : w = v := by
  rw [← wordOf_byteAt w, ← wordOf_byteAt v, h0, h1, h2, h3]

theorem byteAt_xor (w v : Word) (k : Nat) : byteAt (w ^^^ v) k = byteAt w k ^^^ byteAt v k := by
  simp [byteAt, BitVec.extractLsb'_xor]

theorem wordOf_xor (a b c d a' b' c' d' : Byte) :
    wordOf a b c d ^^^ wordOf a' b' c' d' = wordOf (a ^^^ a') (b ^^^ b') (c ^^^ c') (d ^^^ d') := by
  apply word_ext <;> simp [byteAt_xor]

/-- `wordOf` is the spec's shifted sum of bytes (00_scope.md R11). -/
theorem wordOf_eq_shifts (a b c d : Byte) :
    wordOf a b c d =
      ((a.zeroExtend 32 <<< 24) ||| (b.zeroExtend 32 <<< 16) ||| (c.zeroExtend 32 <<< 8) ||| d.zeroExtend 32) := by
  apply BitVec.eq_of_getLsbD_eq
  intro i hi
  simp only [getLsbD_wordOf, BitVec.getLsbD_or, BitVec.getLsbD_shiftLeft, BitVec.getLsbD_setWidth]
  by_cases h1 : i < 8
  · simp [h1, hi, show i < 24 by omega, show i < 16 by omega]
  · by_cases h2 : i < 16
    · simp [h1, h2, hi, show i < 24 by omega, show i - 8 < 32 by omega, BitVec.getLsbD_of_ge d i (by omega)]
    · by_cases h3 : i < 24
      · simp [h1, h2, h3, hi, show i - 16 < 32 by omega, BitVec.getLsbD_of_ge d i (by omega),
          BitVec.getLsbD_of_ge c (i - 8) (by omega)]
      · simp [h1, h2, h3, hi, show i - 24 < 32 by omega, BitVec.getLsbD_of_ge d i (by omega),
          BitVec.getLsbD_of_ge c (i - 8) (by omega), BitVec.getLsbD_of_ge b (i - 16) (by omega)]

/-- `rotr32` is the cyclic rotation (00_scope.md R10). -/
theorem rotr32_eq_rotateRight (w : Word) (n : Nat) (h : n < 32) : rotr32 w n = w.rotateRight n := by
  simp [rotr32, BitVec.rotateRight, BitVec.rotateRightAux, Nat.mod_eq_of_lt h]

theorem getLsbD_rotr32 (w : Word) (n i : Nat) (hn : n ≤ 32) (hi : i < 32) :
    (rotr32 w n).getLsbD i = if i + n < 32 then w.getLsbD (i + n) else w.getLsbD (i + n - 32) := by
  simp only [rotr32, BitVec.getLsbD_or, BitVec.getLsbD_ushiftRight, BitVec.getLsbD_shiftLeft, hi, decide_true, Bool.true_and]
  by_cases h : i + n < 32
  · simp [h, show i < 32 - n by omega, Nat.add_comm n i]
  · simp [h, show ¬ i < 32 - n by omega, BitVec.getLsbD_of_ge w (n + i) (by omega), show i - (32 - n) = i + n - 32 by omega]

/-- Rotation right by one byte moves the last byte to the front. -/
theorem rotr32_wordOf_one (a b c d : Byte) : rotr32 (wordOf a b c d) 8 = wordOf d a b c := by
  apply BitVec.eq_of_getLsbD_eq
  intro i hi
  rw [getLsbD_rotr32 _ _ _ (by omega) hi, getLsbD_wordOf, getLsbD_wordOf, getLsbD_wordOf]
  repeat' split
  all_goals first | omega | congr 1

/-- Rotation right by two bytes swaps the halves. -/
theorem rotr32_wordOf_two (a b c d : Byte) : rotr32 (wordOf a b c d) 16 = wordOf c d a b := by
  apply BitVec.eq_of_getLsbD_eq
  intro i hi
  rw [getLsbD_rotr32 _ _ _ (by omega) hi, getLsbD_wordOf, getLsbD_wordOf, getLsbD_wordOf]
  repeat' split
  all_goals first | omega | congr 1

/-- Rotation right by three bytes moves the first byte to the end. -/
theorem rotr32_wordOf_three (a b c d : Byte) : rotr32 (wordOf a b c d) 24 = wordOf b c d a := by
  apply BitVec.eq_of_getLsbD_eq
  intro i hi
  rw [getLsbD_rotr32 _ _ _ (by omega) hi, getLsbD_wordOf, getLsbD_wordOf, getLsbD_wordOf]
  repeat' split
  all_goals first | omega | congr 1

theorem rotr32_zero (w : Word) : rotr32 w 0 = w := by
  simp [rotr32, BitVec.shiftLeft_eq_zero]

/-- Reading a store of words after writing one of them. -/
theorem wordAt_setIfInBounds {n : Nat} (v : Vector Word n) (i j : Nat) (w : Word) :
    wordAt (v.setIfInBounds i w) j = if j = i ∧ i < n then w else wordAt v j := by
  unfold wordAt
  rw [Vector.getElem?_setIfInBounds]
  by_cases h : i = j
  · subst h
    by_cases hi : i < n <;> simp [hi]
  · simp [h, Ne.symm h]

/-- Reading a store of words that is given entry by entry. -/
theorem wordAt_ofFn {n : Nat} (f : Fin n → Word) (i : Nat) :
    wordAt (Vector.ofFn f) i = if h : i < n then f ⟨i, h⟩ else 0 := by
  unfold wordAt
  by_cases h : i < n <;> simp [h]

@[simp] theorem wordAt_replicate (n i : Nat) : wordAt (Vector.replicate n (0 : Word)) i = 0 := by
  unfold wordAt
  by_cases h : i < n <;> simp [h]

/-- Two stores with the same words are the same store. -/
theorem store_ext {n : Nat} {v u : Vector Word n} (h : ∀ i < n, wordAt v i = wordAt u i) : v = u := by
  apply Vector.ext
  intro i hi
  simpa [wordAt, hi] using h i hi

end Sys2Proof.Machine
end

