-- ==== Sys2Proof/Laws/State.lean ====
section
/-! SUPPORT. What each shared update of the state does to each field, true by `rfl`, so that no proof unfolds an update. -/

namespace Sys2Proof.Machine.State

variable (s : State)

@[simp] theorem finish_regs (e : ErrCode) : (s.finish e).regs = s.regs := rfl
@[simp] theorem finish_status (e : ErrCode) : (s.finish e).status = { s.status with err := e, done := true } := rfl
@[simp] theorem finish_tblReady (e : ErrCode) : (s.finish e).tblReady = s.tblReady := rfl
@[simp] theorem finish_aes (e : ErrCode) : (s.finish e).aes = s.aes := rfl
@[simp] theorem finish_sha (e : ErrCode) : (s.finish e).sha = s.sha := rfl
@[simp] theorem finish_busy (e : ErrCode) : (s.finish e).busy = false := rfl
@[simp] theorem finish_pending (e : ErrCode) : (s.finish e).pending = s.pending := rfl
@[simp] theorem finish_snap (e : ErrCode) : (s.finish e).snap = s.snap := rfl
@[simp] theorem finish_inputs (e : ErrCode) : (s.finish e).inputs = s.inputs := rfl
@[simp] theorem finish_response (e : ErrCode) : (s.finish e).response = s.response := rfl

@[simp] theorem setRdata_regs (w : Word) : (s.setRdata w).regs = { s.regs with rdata := w } := rfl
@[simp] theorem setRdata_status (w : Word) : (s.setRdata w).status = s.status := rfl
@[simp] theorem setRdata_tblReady (w : Word) : (s.setRdata w).tblReady = s.tblReady := rfl
@[simp] theorem setRdata_aes (w : Word) : (s.setRdata w).aes = s.aes := rfl
@[simp] theorem setRdata_sha (w : Word) : (s.setRdata w).sha = s.sha := rfl
@[simp] theorem setRdata_busy (w : Word) : (s.setRdata w).busy = s.busy := rfl
@[simp] theorem setRdata_pending (w : Word) : (s.setRdata w).pending = s.pending := rfl
@[simp] theorem setRdata_snap (w : Word) : (s.setRdata w).snap = s.snap := rfl
@[simp] theorem setRdata_inputs (w : Word) : (s.setRdata w).inputs = s.inputs := rfl
@[simp] theorem setRdata_response (w : Word) : (s.setRdata w).response = s.response := rfl

@[simp] theorem setDout_regs (b : Block) : (s.setDout b).regs = { s.regs with dout := b } := rfl
@[simp] theorem setDout_status (b : Block) : (s.setDout b).status = s.status := rfl
@[simp] theorem setDout_tblReady (b : Block) : (s.setDout b).tblReady = s.tblReady := rfl
@[simp] theorem setDout_aes (b : Block) : (s.setDout b).aes = s.aes := rfl
@[simp] theorem setDout_sha (b : Block) : (s.setDout b).sha = s.sha := rfl
@[simp] theorem setDout_busy (b : Block) : (s.setDout b).busy = s.busy := rfl
@[simp] theorem setDout_pending (b : Block) : (s.setDout b).pending = s.pending := rfl
@[simp] theorem setDout_snap (b : Block) : (s.setDout b).snap = s.snap := rfl
@[simp] theorem setDout_inputs (b : Block) : (s.setDout b).inputs = s.inputs := rfl
@[simp] theorem setDout_response (b : Block) : (s.setDout b).response = s.response := rfl

@[simp] theorem setDigest_regs (d : Vector Word 8) : (s.setDigest d).regs = { s.regs with digest := d } := rfl
@[simp] theorem setDigest_status (d : Vector Word 8) : (s.setDigest d).status = s.status := rfl
@[simp] theorem setDigest_tblReady (d : Vector Word 8) : (s.setDigest d).tblReady = s.tblReady := rfl
@[simp] theorem setDigest_aes (d : Vector Word 8) : (s.setDigest d).aes = s.aes := rfl
@[simp] theorem setDigest_sha (d : Vector Word 8) : (s.setDigest d).sha = s.sha := rfl
@[simp] theorem setDigest_busy (d : Vector Word 8) : (s.setDigest d).busy = s.busy := rfl
@[simp] theorem setDigest_pending (d : Vector Word 8) : (s.setDigest d).pending = s.pending := rfl
@[simp] theorem setDigest_snap (d : Vector Word 8) : (s.setDigest d).snap = s.snap := rfl
@[simp] theorem setDigest_inputs (d : Vector Word 8) : (s.setDigest d).inputs = s.inputs := rfl
@[simp] theorem setDigest_response (d : Vector Word 8) : (s.setDigest d).response = s.response := rfl

@[simp] theorem setAes_regs (a : AesContext) : (s.setAes a).regs = s.regs := rfl
@[simp] theorem setAes_status (a : AesContext) : (s.setAes a).status = s.status := rfl
@[simp] theorem setAes_tblReady (a : AesContext) : (s.setAes a).tblReady = s.tblReady := rfl
@[simp] theorem setAes_aes (a : AesContext) : (s.setAes a).aes = a := rfl
@[simp] theorem setAes_sha (a : AesContext) : (s.setAes a).sha = s.sha := rfl
@[simp] theorem setAes_busy (a : AesContext) : (s.setAes a).busy = s.busy := rfl
@[simp] theorem setAes_pending (a : AesContext) : (s.setAes a).pending = s.pending := rfl
@[simp] theorem setAes_snap (a : AesContext) : (s.setAes a).snap = s.snap := rfl
@[simp] theorem setAes_inputs (a : AesContext) : (s.setAes a).inputs = s.inputs := rfl
@[simp] theorem setAes_response (a : AesContext) : (s.setAes a).response = s.response := rfl

@[simp] theorem setSha_regs (c : ShaContext) : (s.setSha c).regs = s.regs := rfl
@[simp] theorem setSha_status (c : ShaContext) : (s.setSha c).status = s.status := rfl
@[simp] theorem setSha_tblReady (c : ShaContext) : (s.setSha c).tblReady = s.tblReady := rfl
@[simp] theorem setSha_aes (c : ShaContext) : (s.setSha c).aes = s.aes := rfl
@[simp] theorem setSha_sha (c : ShaContext) : (s.setSha c).sha = c := rfl
@[simp] theorem setSha_busy (c : ShaContext) : (s.setSha c).busy = s.busy := rfl
@[simp] theorem setSha_pending (c : ShaContext) : (s.setSha c).pending = s.pending := rfl
@[simp] theorem setSha_snap (c : ShaContext) : (s.setSha c).snap = s.snap := rfl
@[simp] theorem setSha_inputs (c : ShaContext) : (s.setSha c).inputs = s.inputs := rfl
@[simp] theorem setSha_response (c : ShaContext) : (s.setSha c).response = s.response := rfl

@[simp] theorem accept_regs (c : Word) : (s.accept c).regs = s.regs := rfl
@[simp] theorem accept_status (c : Word) : (s.accept c).status = { s.status with done := false, err := .none } := rfl
@[simp] theorem accept_tblReady (c : Word) : (s.accept c).tblReady = s.tblReady := rfl
@[simp] theorem accept_aes (c : Word) : (s.accept c).aes = s.aes := rfl
@[simp] theorem accept_sha (c : Word) : (s.accept c).sha = s.sha := rfl
@[simp] theorem accept_busy (c : Word) : (s.accept c).busy = true := rfl
@[simp] theorem accept_pending (c : Word) : (s.accept c).pending = c := rfl
@[simp] theorem accept_snap (c : Word) : (s.accept c).snap = s.regs.snapshot := rfl
@[simp] theorem accept_inputs (c : Word) : (s.accept c).inputs = s.inputs := rfl
@[simp] theorem accept_response (c : Word) : (s.accept c).response = s.response := rfl

@[simp] theorem overrun_regs : (s.overrun).regs = s.regs := rfl
@[simp] theorem overrun_status : (s.overrun).status = { s.status with overrun := true } := rfl
@[simp] theorem overrun_tblReady : (s.overrun).tblReady = s.tblReady := rfl
@[simp] theorem overrun_aes : (s.overrun).aes = s.aes := rfl
@[simp] theorem overrun_sha : (s.overrun).sha = s.sha := rfl
@[simp] theorem overrun_busy : (s.overrun).busy = s.busy := rfl
@[simp] theorem overrun_pending : (s.overrun).pending = s.pending := rfl
@[simp] theorem overrun_snap : (s.overrun).snap = s.snap := rfl
@[simp] theorem overrun_inputs : (s.overrun).inputs = s.inputs := rfl
@[simp] theorem overrun_response : (s.overrun).response = s.response := rfl

@[simp] theorem clearStatus_regs (v : Word) : (s.clearStatus v).regs = s.regs := rfl
@[simp] theorem clearStatus_status (v : Word) : (s.clearStatus v).status = { s.status with
      done := s.status.done && !v.getLsbD 1
      overrun := s.status.overrun && !v.getLsbD 2 } := rfl
@[simp] theorem clearStatus_tblReady (v : Word) : (s.clearStatus v).tblReady = s.tblReady := rfl
@[simp] theorem clearStatus_aes (v : Word) : (s.clearStatus v).aes = s.aes := rfl
@[simp] theorem clearStatus_sha (v : Word) : (s.clearStatus v).sha = s.sha := rfl
@[simp] theorem clearStatus_busy (v : Word) : (s.clearStatus v).busy = s.busy := rfl
@[simp] theorem clearStatus_pending (v : Word) : (s.clearStatus v).pending = s.pending := rfl
@[simp] theorem clearStatus_snap (v : Word) : (s.clearStatus v).snap = s.snap := rfl
@[simp] theorem clearStatus_inputs (v : Word) : (s.clearStatus v).inputs = s.inputs := rfl
@[simp] theorem clearStatus_response (v : Word) : (s.clearStatus v).response = s.response := rfl

@[simp] theorem setCtrl_regs (v : Word) : (s.setCtrl v).regs = { s.regs with ie := v.getLsbD 0 } := rfl
@[simp] theorem setCtrl_status (v : Word) : (s.setCtrl v).status = s.status := rfl
@[simp] theorem setCtrl_tblReady (v : Word) : (s.setCtrl v).tblReady = s.tblReady := rfl
@[simp] theorem setCtrl_aes (v : Word) : (s.setCtrl v).aes = s.aes := rfl
@[simp] theorem setCtrl_sha (v : Word) : (s.setCtrl v).sha = s.sha := rfl
@[simp] theorem setCtrl_busy (v : Word) : (s.setCtrl v).busy = s.busy := rfl
@[simp] theorem setCtrl_pending (v : Word) : (s.setCtrl v).pending = s.pending := rfl
@[simp] theorem setCtrl_snap (v : Word) : (s.setCtrl v).snap = s.snap := rfl
@[simp] theorem setCtrl_inputs (v : Word) : (s.setCtrl v).inputs = s.inputs := rfl
@[simp] theorem setCtrl_response (v : Word) : (s.setCtrl v).response = s.response := rfl

@[simp] theorem setKey_regs (k : Nat) (v : Word) : (s.setKey k v).regs = { s.regs with key := s.regs.key.setIfInBounds k v } := rfl
@[simp] theorem setKey_status (k : Nat) (v : Word) : (s.setKey k v).status = s.status := rfl
@[simp] theorem setKey_tblReady (k : Nat) (v : Word) : (s.setKey k v).tblReady = s.tblReady := rfl
@[simp] theorem setKey_aes (k : Nat) (v : Word) : (s.setKey k v).aes = s.aes := rfl
@[simp] theorem setKey_sha (k : Nat) (v : Word) : (s.setKey k v).sha = s.sha := rfl
@[simp] theorem setKey_busy (k : Nat) (v : Word) : (s.setKey k v).busy = s.busy := rfl
@[simp] theorem setKey_pending (k : Nat) (v : Word) : (s.setKey k v).pending = s.pending := rfl
@[simp] theorem setKey_snap (k : Nat) (v : Word) : (s.setKey k v).snap = s.snap := rfl
@[simp] theorem setKey_inputs (k : Nat) (v : Word) : (s.setKey k v).inputs = s.inputs := rfl
@[simp] theorem setKey_response (k : Nat) (v : Word) : (s.setKey k v).response = s.response := rfl

@[simp] theorem setDin_regs (k : Nat) (v : Word) : (s.setDin k v).regs = { s.regs with din := s.regs.din.setIfInBounds k v } := rfl
@[simp] theorem setDin_status (k : Nat) (v : Word) : (s.setDin k v).status = s.status := rfl
@[simp] theorem setDin_tblReady (k : Nat) (v : Word) : (s.setDin k v).tblReady = s.tblReady := rfl
@[simp] theorem setDin_aes (k : Nat) (v : Word) : (s.setDin k v).aes = s.aes := rfl
@[simp] theorem setDin_sha (k : Nat) (v : Word) : (s.setDin k v).sha = s.sha := rfl
@[simp] theorem setDin_busy (k : Nat) (v : Word) : (s.setDin k v).busy = s.busy := rfl
@[simp] theorem setDin_pending (k : Nat) (v : Word) : (s.setDin k v).pending = s.pending := rfl
@[simp] theorem setDin_snap (k : Nat) (v : Word) : (s.setDin k v).snap = s.snap := rfl
@[simp] theorem setDin_inputs (k : Nat) (v : Word) : (s.setDin k v).inputs = s.inputs := rfl
@[simp] theorem setDin_response (k : Nat) (v : Word) : (s.setDin k v).response = s.response := rfl

@[simp] theorem setMsg_regs (k : Nat) (v : Word) : (s.setMsg k v).regs = { s.regs with msg := s.regs.msg.setIfInBounds k v } := rfl
@[simp] theorem setMsg_status (k : Nat) (v : Word) : (s.setMsg k v).status = s.status := rfl
@[simp] theorem setMsg_tblReady (k : Nat) (v : Word) : (s.setMsg k v).tblReady = s.tblReady := rfl
@[simp] theorem setMsg_aes (k : Nat) (v : Word) : (s.setMsg k v).aes = s.aes := rfl
@[simp] theorem setMsg_sha (k : Nat) (v : Word) : (s.setMsg k v).sha = s.sha := rfl
@[simp] theorem setMsg_busy (k : Nat) (v : Word) : (s.setMsg k v).busy = s.busy := rfl
@[simp] theorem setMsg_pending (k : Nat) (v : Word) : (s.setMsg k v).pending = s.pending := rfl
@[simp] theorem setMsg_snap (k : Nat) (v : Word) : (s.setMsg k v).snap = s.snap := rfl
@[simp] theorem setMsg_inputs (k : Nat) (v : Word) : (s.setMsg k v).inputs = s.inputs := rfl
@[simp] theorem setMsg_response (k : Nat) (v : Word) : (s.setMsg k v).response = s.response := rfl

@[simp] theorem respond_regs (r : BusResponse) : (s.respond r).regs = s.regs := rfl
@[simp] theorem respond_status (r : BusResponse) : (s.respond r).status = s.status := rfl
@[simp] theorem respond_tblReady (r : BusResponse) : (s.respond r).tblReady = s.tblReady := rfl
@[simp] theorem respond_aes (r : BusResponse) : (s.respond r).aes = s.aes := rfl
@[simp] theorem respond_sha (r : BusResponse) : (s.respond r).sha = s.sha := rfl
@[simp] theorem respond_busy (r : BusResponse) : (s.respond r).busy = s.busy := rfl
@[simp] theorem respond_pending (r : BusResponse) : (s.respond r).pending = s.pending := rfl
@[simp] theorem respond_snap (r : BusResponse) : (s.respond r).snap = s.snap := rfl
@[simp] theorem respond_inputs (r : BusResponse) : (s.respond r).inputs = s.inputs := rfl
@[simp] theorem respond_response (r : BusResponse) : (s.respond r).response = some r := rfl

@[simp] theorem withInputs_regs (es : List PortEvent) : (s.withInputs es).regs = s.regs := rfl
@[simp] theorem withInputs_status (es : List PortEvent) : (s.withInputs es).status = s.status := rfl
@[simp] theorem withInputs_tblReady (es : List PortEvent) : (s.withInputs es).tblReady = s.tblReady := rfl
@[simp] theorem withInputs_aes (es : List PortEvent) : (s.withInputs es).aes = s.aes := rfl
@[simp] theorem withInputs_sha (es : List PortEvent) : (s.withInputs es).sha = s.sha := rfl
@[simp] theorem withInputs_busy (es : List PortEvent) : (s.withInputs es).busy = s.busy := rfl
@[simp] theorem withInputs_pending (es : List PortEvent) : (s.withInputs es).pending = s.pending := rfl
@[simp] theorem withInputs_snap (es : List PortEvent) : (s.withInputs es).snap = s.snap := rfl
@[simp] theorem withInputs_inputs (es : List PortEvent) : (s.withInputs es).inputs = es := rfl
@[simp] theorem withInputs_response (es : List PortEvent) : (s.withInputs es).response = s.response := rfl

@[simp] theorem tablesReady_regs : (s.tablesReady).regs = s.regs := rfl
@[simp] theorem tablesReady_status : (s.tablesReady).status = s.status := rfl
@[simp] theorem tablesReady_tblReady : (s.tablesReady).tblReady = true := rfl
@[simp] theorem tablesReady_aes : (s.tablesReady).aes = s.aes := rfl
@[simp] theorem tablesReady_sha : (s.tablesReady).sha = s.sha := rfl
@[simp] theorem tablesReady_busy : (s.tablesReady).busy = s.busy := rfl
@[simp] theorem tablesReady_pending : (s.tablesReady).pending = s.pending := rfl
@[simp] theorem tablesReady_snap : (s.tablesReady).snap = s.snap := rfl
@[simp] theorem tablesReady_inputs : (s.tablesReady).inputs = s.inputs := rfl
@[simp] theorem tablesReady_response : (s.tablesReady).response = s.response := rfl

end Sys2Proof.Machine.State
end

