-- ==== Sys2Proof/Laws/Ops.lean ====
section
/-! SUPPORT. What each command can do: one lemma per meaning, to be cited where its definition would otherwise be unfolded. -/

namespace Sys2Proof.Machine

theorem succeed_eq (s : State) : succeed s = .next (s.finish .none) := rfl

theorem raise_eq (e : ErrCode) (s : State) : raise e s = .next (s.finish e) := rfl

theorem execNop_eq (s : State) : execNop s = .next (s.finish .none) := rfl

theorem execIllegal_eq (s : State) : execIllegal s = .next (s.finish .illegalCommand) := rfl

theorem execTblRead_cases {table index : Nat} {s t : State} (h : execTblRead table index s = .next t) :
    ((table > 16 ∨ (table = 16 ∧ index > 9) ∨ (table < 16 ∧ index > 255)) ∧ t = s.finish .argumentRange) ∨
      (((table < 16 ∧ index ≤ 255) ∨ (table = 16 ∧ index ≤ 9)) ∧
        t = (s.setRdata (tableEntry table index)).finish .none) := by
  unfold execTblRead at h
  split at h
  · exact .inl ⟨by omega, by injection h with h; exact h.symm⟩
  · split at h
    · exact .inl ⟨by omega, by injection h with h; exact h.symm⟩
    · split at h
      · exact .inl ⟨by omega, by injection h with h; exact h.symm⟩
      · exact .inr ⟨by omega, by injection h with h; exact h.symm⟩

theorem execAesKeysetup_cases {keybytes bitlen : Nat} {s t : State} (h : execAesKeysetup keybytes bitlen s = .next t) :
    (keyLengthOk keybytes bitlen = false ∧ t = (s.setAes { s.aes with nr := .unkeyed }).finish .invalidKeyLength) ∨
      (keyLengthOk keybytes bitlen = true ∧
        t = (s.setAes
          { nr := roundsOf (bitlen / 32 + 6)
            erk := expandKey (bitlen / 32) (bitlen / 32 + 6) s.snap s.aes.erk
            drk := deriveDecryptionKeys (bitlen / 32 + 6)
              (expandKey (bitlen / 32) (bitlen / 32 + 6) s.snap s.aes.erk) s.aes.drk }).finish .none) := by
  unfold execAesKeysetup at h
  split at h
  next hk => exact .inr ⟨hk, by injection h with h; exact h.symm⟩
  next hk => exact .inl ⟨by simpa using hk, by injection h with h; exact h.symm⟩

theorem execAesEncrypt_cases {s t : State} (h : execAesEncrypt s = .next t) :
    (s.aes.nr = .unkeyed ∧ t = s.finish .uninitializedContext) ∨
      (s.aes.nr ≠ .unkeyed ∧ t = (s.setDout (encryptBlock s.aes.nr.num s.aes.erk s.snap.din)).finish .none) := by
  unfold execAesEncrypt at h
  split at h
  next hn => exact .inl ⟨hn, by injection h with h; exact h.symm⟩
  next hn => exact .inr ⟨hn, by injection h with h; exact h.symm⟩

theorem execAesDecrypt_cases {s t : State} (h : execAesDecrypt s = .next t) :
    (s.aes.nr = .unkeyed ∧ t = s.finish .uninitializedContext) ∨
      (s.aes.nr ≠ .unkeyed ∧ t = (s.setDout (decryptBlock s.aes.nr.num s.aes.drk s.snap.din)).finish .none) := by
  unfold execAesDecrypt at h
  split at h
  next hn => exact .inl ⟨hn, by injection h with h; exact h.symm⟩
  next hn => exact .inr ⟨hn, by injection h with h; exact h.symm⟩

theorem execAesRkread_cases {sched index : Nat} {s t : State} (h : execAesRkread sched index s = .next t) :
    (s.aes.nr = .unkeyed ∧ t = s.finish .uninitializedContext) ∨
      (s.aes.nr ≠ .unkeyed ∧ (sched > 1 ∨ index ≥ 4 * (s.aes.nr.num + 1)) ∧ t = s.finish .argumentRange) ∨
      (s.aes.nr ≠ .unkeyed ∧ sched ≤ 1 ∧ index < 4 * (s.aes.nr.num + 1) ∧
        t = (s.setRdata (wordAt (if sched = 0 then s.aes.erk else s.aes.drk) index)).finish .none) := by
  unfold execAesRkread at h
  split at h
  next hn => exact .inl ⟨hn, by injection h with h; exact h.symm⟩
  next hn =>
    split at h
    next hs => exact .inr (.inl ⟨hn, .inl hs, by injection h with h; exact h.symm⟩)
    next hs =>
      split at h
      next hi => exact .inr (.inl ⟨hn, .inr hi, by injection h with h; exact h.symm⟩)
      next hi => exact .inr (.inr ⟨hn, by omega, by omega, by injection h with h; exact h.symm⟩)

theorem execShaStart_eq (s : State) :
    execShaStart s =
      .next ((s.setSha { h := shaH0, total := 0, buf := s.sha.buf, count := 0, state := .idle }).finish .none) := rfl

theorem execShaUpdate_cases {len : Nat} {s t : State} (h : execShaUpdate len s = .next t) :
    (s.sha.started = false ∧ t = s.finish .uninitializedContext) ∨
      (s.sha.started = true ∧ len > 64 ∧ t = s.finish .bufferLengthMismatch) ∨
      (s.sha.started = true ∧ len ≤ 64 ∧ s.sha.total.toNat + len > Config.shaMaxBytes ∧ t = s.finish .counterOverflow) ∨
      (s.sha.started = true ∧ len = 0 ∧ s.sha.total.toNat ≤ Config.shaMaxBytes ∧ t = s.finish .none) ∨
      (s.sha.started = true ∧ 0 < len ∧ len ≤ 64 ∧ s.sha.total.toNat + len ≤ Config.shaMaxBytes ∧
        t = (s.setSha (s.sha.absorb (s.snap.message len))).finish .none) := by
  unfold execShaUpdate at h
  split at h
  next hs => exact .inl ⟨by simpa using hs, by injection h with h; exact h.symm⟩
  next hs =>
    have hs : s.sha.started = true := by simpa using hs
    split at h
    next hl => exact .inr (.inl ⟨hs, hl, by injection h with h; exact h.symm⟩)
    next hl =>
      split at h
      next ho => exact .inr (.inr (.inl ⟨hs, by omega, ho, by injection h with h; exact h.symm⟩))
      next ho =>
        split at h
        next hz => exact .inr (.inr (.inr (.inl ⟨hs, hz, by omega, by injection h with h; exact h.symm⟩)))
        next hz =>
          exact .inr (.inr (.inr (.inr ⟨hs, by omega, by omega, by omega, by injection h with h; exact h.symm⟩)))

theorem execShaFinish_cases {s t : State} (h : execShaFinish s = .next t) :
    (s.sha.started = false ∧ t = s.finish .uninitializedContext) ∨
      (s.sha.started = true ∧
        t = ((s.setSha
            { s.sha with
              h := padAndCompress s.sha.total.toNat s.sha.h s.sha.buffered
              count := 0
              state := .final }).setDigest
            (padAndCompress s.sha.total.toNat s.sha.h s.sha.buffered)).finish .none) := by
  unfold execShaFinish at h
  split at h
  next hs => exact .inl ⟨by simpa using hs, by injection h with h; exact h.symm⟩
  next hs => exact .inr ⟨by simpa using hs, by injection h with h; exact h.symm⟩

/-- Every command ends as a completion with some error code of a state that differs from the one it began in at most in the
outputs and the contexts. -/
theorem exec_forms (i : Instr) (s : State) :
    ∃ e dout digest rdata aes sha,
      exec i s = .next
        (({ s with regs := { s.regs with dout := dout, digest := digest, rdata := rdata }, aes := aes, sha := sha } :
          State).finish e) := by
  cases i with
  | nop => exact ⟨_, _, _, _, _, _, rfl⟩
  | aesKeysetup keybytes bitlen =>
    simp only [exec, execAesKeysetup, succeed, raise]
    split <;> exact ⟨_, _, _, _, _, _, rfl⟩
  | aesEncrypt =>
    simp only [exec, execAesEncrypt, succeed, raise]
    split <;> exact ⟨_, _, _, _, _, _, rfl⟩
  | aesDecrypt =>
    simp only [exec, execAesDecrypt, succeed, raise]
    split <;> exact ⟨_, _, _, _, _, _, rfl⟩
  | aesRkread sched index =>
    simp only [exec, execAesRkread, succeed, raise]
    repeat' split
    all_goals exact ⟨_, _, _, _, _, _, rfl⟩
  | shaStart => exact ⟨_, _, _, _, _, _, rfl⟩
  | shaUpdate len =>
    simp only [exec, execShaUpdate, succeed, raise]
    repeat' split
    all_goals exact ⟨_, _, _, _, _, _, rfl⟩
  | shaFinish =>
    simp only [exec, execShaFinish, succeed, raise]
    split <;> exact ⟨_, _, _, _, _, _, rfl⟩
  | tblRead table index =>
    simp only [exec, execTblRead, succeed, raise]
    repeat' split
    all_goals exact ⟨_, _, _, _, _, _, rfl⟩

end Sys2Proof.Machine
end

