-- ==== Sys2Proof/Laws/Step.lean ====
section
/-! SUPPORT. What one step can do, by the slot it takes, and what one host access can do. -/

namespace Sys2Proof.Machine

theorem step_nil {s : State} (h : s.inputs = []) : step s = internalStep s := by
  unfold step; rw [h]

theorem step_idle {s : State} {es : List PortEvent} (h : s.inputs = .idle :: es) :
    step s = internalStep (s.withInputs es) := by
  unfold step; rw [h]

theorem step_reset {s : State} {es : List PortEvent} (h : s.inputs = .reset :: es) :
    step s = .next (State.resetTo es) := by
  unfold step; rw [h]

theorem step_access {s : State} {a : BusAccess} {es : List PortEvent} (h : s.inputs = .access a :: es) :
    step s = .next ((s.withInputs es).access a) := by
  unfold step; rw [h]

theorem internalStep_generator {s : State} (h : s.tblReady = false) : internalStep s = .next s.tablesReady := by
  simp [internalStep, h]

theorem internalStep_complete {s : State} (hr : s.tblReady = true) (hb : s.busy = true) : internalStep s = complete s := by
  simp [internalStep, hr, hb]

theorem internalStep_stay {s : State} (hr : s.tblReady = true) (hb : s.busy = false) : internalStep s = .next s := by
  simp [internalStep, hr, hb]

/-- The internal step is the generator's, the complete step, or none. -/
theorem internalStep_cases {s t : State} (h : internalStep s = .next t) :
    (s.tblReady = false ∧ t = s.tablesReady) ∨ (s.tblReady = true ∧ s.busy = true ∧ complete s = .next t) ∨
      (s.tblReady = true ∧ s.busy = false ∧ t = s) := by
  cases hr : s.tblReady with
  | false =>
    rw [internalStep_generator hr] at h
    injection h with h
    exact .inl ⟨rfl, h.symm⟩
  | true =>
    cases hb : s.busy with
    | true => exact .inr (.inl ⟨rfl, rfl, internalStep_complete hr hb ▸ h⟩)
    | false =>
      rw [internalStep_stay hr hb] at h
      injection h with h
      exact .inr (.inr ⟨rfl, rfl, h.symm⟩)

/-- The complete step runs the decoded command, or completes with IllegalCommand. -/
theorem complete_cases {s t : State} (h : complete s = .next t) :
    (∃ i, decode s.pending = .ok i ∧ exec i s = .next t) ∨
      (∃ e, decode s.pending = .error e) ∧ t = s.finish .illegalCommand := by
  unfold complete at h
  split at h
  next i hi => exact .inl ⟨i, hi, h⟩
  next e he =>
    injection h with h
    exact .inr ⟨⟨e, he⟩, h.symm⟩

/-- A step takes the next slot: none or an idle one for the core, a reset, or one host access. -/
theorem step_cases {s t : State} (h : step s = .next t) :
    (s.inputs = [] ∧ internalStep s = .next t) ∨
      (∃ es, s.inputs = .idle :: es ∧ internalStep (s.withInputs es) = .next t) ∨
      (∃ es, s.inputs = .reset :: es ∧ t = State.resetTo es) ∨
      (∃ a es, s.inputs = .access a :: es ∧ t = (s.withInputs es).access a) := by
  cases hi : s.inputs with
  | nil => exact .inl ⟨rfl, step_nil hi ▸ h⟩
  | cons e es =>
    cases e with
    | idle => exact .inr (.inl ⟨es, rfl, step_idle hi ▸ h⟩)
    | reset =>
      rw [step_reset hi] at h
      injection h with h
      exact .inr (.inr (.inl ⟨es, rfl, h.symm⟩))
    | access a =>
      rw [step_access hi] at h
      injection h with h
      exact .inr (.inr (.inr ⟨a, es, rfl, h.symm⟩))

/-- A register write at an offset of the window, as the host actions name it. -/
theorem access_write {s : State} {off : Nat} {v : Word} (ha : off % 4 = 0) (hw : off < 0x100) :
    s.access { op := .write v, off := BitVec.ofNat 8 off, width := 4 } = (writeReg s off v).respond .ack := by
  have hm : off % 256 = off := Nat.mod_eq_of_lt hw
  simp [State.access, BusAccess.served, hm, ha]

/-- A register read at an offset of the window. -/
theorem access_read {s : State} {off : Nat} (ha : off % 4 = 0) (hw : off < 0x100) :
    s.access { op := .read, off := BitVec.ofNat 8 off, width := 4 } = s.respond (.data (readReg s off)) := by
  have hm : off % 256 = off := Nat.mod_eq_of_lt hw
  simp [State.access, BusAccess.served, hm, ha]

theorem step_hostWr {s : State} {off : Nat} {v : Word} {es : List PortEvent} (h : s.inputs = hostWr off v :: es)
    (ha : off % 4 = 0) (hw : off < 0x100) :
    step s = .next ((writeReg (s.withInputs es) off v).respond .ack) := by
  rw [step_access h, access_write ha hw]

theorem step_hostRd {s : State} {off : Nat} {es : List PortEvent} (h : s.inputs = hostRd off :: es)
    (ha : off % 4 = 0) (hw : off < 0x100) :
    step s = .next ((s.withInputs es).respond (.data (readReg (s.withInputs es) off))) := by
  rw [step_access h, access_read ha hw]

/-- A host access is refused with a bus error, reads a register, or writes one. -/
theorem access_cases (s : State) (a : BusAccess) :
    (a.served = false ∧ s.access a = s.respond .busError) ∨
      (a.served = true ∧ a.op = .read ∧ s.access a = s.respond (.data (readReg s a.off.toNat))) ∨
      (∃ v, a.served = true ∧ a.op = .write v ∧ s.access a = (writeReg s a.off.toNat v).respond .ack) := by
  unfold State.access
  cases hs : a.served with
  | false => exact .inl ⟨rfl, by simp⟩
  | true =>
    cases ho : a.op with
    | read => exact .inr (.inl ⟨rfl, rfl, by simp⟩)
    | write v => exact .inr (.inr ⟨v, rfl, rfl, by simp⟩)

/-- A register write changes one register, offers a command, or does nothing. -/
theorem writeReg_cases (s : State) (off : Nat) (v : Word) :
    (off = 0x00 ∧ s.busy = true ∧ writeReg s off v = s.overrun) ∨
      (off = 0x00 ∧ s.busy = false ∧ writeReg s off v = s.accept v) ∨
      (off = 0x04 ∧ writeReg s off v = s.clearStatus v) ∨
      (off = 0x08 ∧ writeReg s off v = s.setCtrl v) ∨
      ((0x10 ≤ off ∧ off < 0x30) ∧ writeReg s off v = s.setKey ((off - 0x10) / 4) v) ∨
      ((0x30 ≤ off ∧ off < 0x40) ∧ writeReg s off v = s.setDin ((off - 0x30) / 4) v) ∨
      ((0x50 ≤ off ∧ off < 0x90) ∧ writeReg s off v = s.setMsg ((off - 0x50) / 4) v) ∨
      (off ≠ 0x00 ∧ off ≠ 0x04 ∧ off ≠ 0x08 ∧ (off < 0x10 ∨ (0x40 ≤ off ∧ off < 0x50) ∨ 0x90 ≤ off) ∧
        writeReg s off v = s) := by
  unfold writeReg
  by_cases h0 : off = 0x00
  · cases hb : s.busy <;> simp [h0, State.offer, hb]
  by_cases h4 : off = 0x04
  · simp [h4]
  by_cases h8 : off = 0x08
  · simp [h8]
  simp only [h0, h4, h8, if_false, false_and, false_or, ne_eq, not_false_eq_true, true_and]
  repeat' split
  all_goals simp
  all_goals omega

end Sys2Proof.Machine
end

