-- ==== Sys2Proof/Laws/HostProgram.lean ====
section
/-! SUPPORT. What a run of a host program can do at its next port event. -/

namespace Sys2Proof.Machine

@[simp] theorem hostPlays_nil (acts : List HostAction) (s : State) : hostPlays [] acts s = acts.isEmpty := rfl

@[simp] theorem hostAfter_idle (acts : List HostAction) (r : Option BusResponse) : hostAfter acts .idle r = some acts := rfl

/-- The next event of a run takes a step, and what is left of the program runs on from there. -/
theorem hostPlays_cons {e : PortEvent} {es : List PortEvent} {acts : List HostAction} {s : State}
    (h : hostPlays (e :: es) acts s = true) :
    ∃ t rest, step (s.withInputs (e :: es)) = .next t ∧ hostAfter acts e t.response = some rest ∧ hostPlays es rest t = true := by
  unfold hostPlays at h
  split at h
  next t ht =>
    split at h
    next rest hr => exact ⟨t, rest, ht, hr, h⟩
    next => cases h
  next => cases h
  next => cases h

/-- A port event of a run is a slot of the core, or the access of the program's next action, which only a `wait` that reads
BUSY = 1 keeps. -/
theorem hostAfter_cases {acts rest : List HostAction} {e : PortEvent} {r : Option BusResponse}
    (h : hostAfter acts e r = some rest) :
    (e = .idle ∧ rest = acts) ∨
      ∃ a as, acts = a :: as ∧ e = a.event ∧
        ((a = .wait ∧ readsBusy r = true ∧ rest = acts) ∨ ((a = .wait → readsBusy r = false) ∧ rest = as)) := by
  unfold hostAfter at h
  split at h
  next he => exact .inl ⟨he, (Option.some.inj h).symm⟩
  next =>
    split at h
    next => cases h
    next a as =>
      split at h
      next he =>
        refine .inr ⟨a, as, rfl, he, ?_⟩
        have h := Option.some.inj h
        split at h
        next hw =>
          rw [Bool.and_eq_true, decide_eq_true_eq] at hw
          exact .inl ⟨hw.1, hw.2, h.symm⟩
        next hw => exact .inr ⟨fun ha => by simpa [ha] using hw, h.symm⟩
      next => cases h

/-- A read of STATUS returns BUSY = 1 exactly while a command is pending (10_state.md R24). -/
theorem readsBusy_status (s : State) : readsBusy (some (.data (readReg s 0x04))) = s.busy :=
  (BitVec.getLsbD_append (i := 0) (y := BitVec.ofBool s.busy)).trans (by simp)

end Sys2Proof.Machine
end

