-- ==== Sys2Proof/Laws/PerInstr.lean ====
section
/-! SUPPORT. The family TableRow: the encoding of every command has the fixed bits of the command's row in
spec/opcode_table.json. -/

namespace Sys2Proof.Laws

/-- The `mask` column of the command's row. -/
def TableRow.mask : Instr → Word
  | .nop => 0xFFFFFFFF
  | .aesKeysetup _ _ => 0x000000FF
  | .aesEncrypt => 0xFFFFFFFF
  | .aesDecrypt => 0xFFFFFFFF
  | .aesRkread _ _ => 0x000000FF
  | .shaStart => 0xFFFFFFFF
  | .shaUpdate _ => 0xFFFF00FF
  | .shaFinish => 0xFFFFFFFF
  | .tblRead _ _ => 0x000000FF

/-- The `match` column of the command's row. -/
def TableRow.bits : Instr → Word
  | .nop => 0x00000000
  | .aesKeysetup _ _ => 0x00000010
  | .aesEncrypt => 0x00000011
  | .aesDecrypt => 0x00000012
  | .aesRkread _ _ => 0x00000013
  | .shaStart => 0x00000020
  | .shaUpdate _ => 0x00000021
  | .shaFinish => 0x00000022
  | .tblRead _ _ => 0x00000030

/-- The command's encoding has its row's fixed bits, whatever its operands. -/
def TableRow.Statement (i : Instr) : Prop := encode i &&& TableRow.mask i = TableRow.bits i

/-- The low byte of a command word is its opcode field. -/
theorem commandWord_and_opcode (op fa fb : Nat) :
    commandWord op fa fb &&& 0x000000FF = 0#24 ++ BitVec.ofNat 8 op := by
  have e : (0x000000FF : Word) = 0#16 ++ 0#8 ++ BitVec.allOnes 8 := by decide
  rw [e, commandWord, BitVec.and_append, BitVec.and_append, BitVec.and_allOnes, BitVec.and_zero, BitVec.and_zero]
  rfl

/-- The word without field A is the same with field A zero. -/
theorem commandWord_and_noA (op fa fb : Nat) : commandWord op fa fb &&& 0xFFFF00FF = commandWord op 0 fb := by
  have e : (0xFFFF00FF : Word) = BitVec.allOnes 16 ++ 0#8 ++ BitVec.allOnes 8 := by decide
  rw [e, commandWord, commandWord, BitVec.and_append, BitVec.and_append, BitVec.and_allOnes, BitVec.and_allOnes,
    BitVec.and_zero]

theorem TableRow.nop : TableRow.Statement .nop := rfl

theorem TableRow.aesKeysetup (keybytes bitlen : Nat) : TableRow.Statement (.aesKeysetup keybytes bitlen) :=
  commandWord_and_opcode 0x10 keybytes bitlen

theorem TableRow.aesEncrypt : TableRow.Statement .aesEncrypt := rfl

theorem TableRow.aesDecrypt : TableRow.Statement .aesDecrypt := rfl

theorem TableRow.aesRkread (sched index : Nat) : TableRow.Statement (.aesRkread sched index) :=
  commandWord_and_opcode 0x13 sched index

theorem TableRow.shaStart : TableRow.Statement .shaStart := rfl

theorem TableRow.shaUpdate (len : Nat) : TableRow.Statement (.shaUpdate len) := commandWord_and_noA 0x21 len 0

theorem TableRow.shaFinish : TableRow.Statement .shaFinish := rfl

theorem TableRow.tblRead (table index : Nat) : TableRow.Statement (.tblRead table index) :=
  commandWord_and_opcode 0x30 table index

end Sys2Proof.Laws
end

