-- ==== Sys2Proof/Laws/Tables.lean ====
section
/-! SUPPORT. The ROM contents are what the constructions of the rules make (40_gf_tables.md R113 to R116). -/

namespace Sys2Proof.Machine

/-- The pow ROM holds what the loop of R113 builds. -/
theorem powRom_is_generated : genPow = (List.range 256).map pow := by decide +kernel

/-- The log ROM holds what the loop of R114 builds from the pow table. -/
theorem logRom_is_generated : genLog pow = (List.range 256).map fun i => log (BitVec.ofNat 8 i) := by decide +kernel

/-- The sbox ROM holds what the loop of R115 builds. -/
theorem sboxRom_is_generated : genSbox = (List.range 256).map fun i => sbox (BitVec.ofNat 8 i) := by decide +kernel

/-- The inv_sbox ROM holds what the loop of R116 builds from the sbox table. -/
theorem invSboxRom_is_generated : genInvSbox = (List.range 256).map fun i => invSbox (BitVec.ofNat 8 i) := by
  decide +kernel

end Sys2Proof.Machine
end

