-- ==== Sys2Proof/Tests/Slice0.lean ====
section
/-! SUPPORT. The model's own tests, with the values of 95_test_vectors.md and of the rules' examples, and for every obligation
with hypotheses a named witness that meets them. -/

namespace Sys2Proof.Tests

open Sys2Proof.Machine

-- One theorem at a time: many waiting at once would each hold a thread's stack.
set_option Elab.async false

/-- The next state, if the answer is one. -/
def done? : Result → Option State
  | .next t => some t
  | .fault r => nomatch r
  | .refused _ => none

/-- An answer whose next state passes a check is a next state with the checked property. -/
theorem answers {r : Result} (P : State → Prop) [DecidablePred P] (h : (done? r).any (fun t => decide (P t)) = true) :
    ∃ t, r = .next t ∧ P t := by
  cases r with
  | next t => exact ⟨t, rfl, by simpa [done?] using h⟩
  | fault r => cases r
  | refused r => simp [done?] at h

/-- The state after command `i`, or `s` itself where it stops. -/
def after (i : Instr) (s : State) : State := (done? (exec i s)).getD s

/-- The state after one step, or `s` itself where it stops. -/
def stepped (s : State) : State := (done? (step s)).getD s

/-- After reset and the generator's step. -/
def ready : State := { State.reset with tblReady := true }

/-- The key and the plaintext of FIPS-197 C.1 in the operand snapshot. -/
def operands : Snapshot :=
  { Snapshot.reset with
    key := #v[0x00010203, 0x04050607, 0x08090A0B, 0x0C0D0E0F, 0, 0, 0, 0]
    din := #v[0x00112233, 0x44556677, 0x8899AABB, 0xCCDDEEFF]
    msg := Snapshot.reset.msg.set 0 0x61626300 }

/-- Ready, with those operands taken. -/
def loaded : State := { ready with snap := operands }

/-- Keyed with the key of FIPS-197 C.1. -/
def keyed : State := after (.aesKeysetup 16 128) loaded

/-- A running SHA-256 context that holds the message abc. -/
def hashing : State := after (.shaUpdate 3) (after .shaStart loaded)

/-- The context of V-SHA-11, three bytes below the limit. -/
def brink : State := { ready with sha := { ShaContext.reset with total := 0x1FFFFFFFFFFFFFFC, count := 60, state := .accum } }

/-- A command word pending. -/
def pendingWord (s : State) (c : Word) : State := { s with pending := c, busy := true }

/-! ### Well-formed commands -/

theorem test_keybytes_too_wide : wellFormed (.aesKeysetup 256 128) = false := by decide

theorem test_bitlen_too_wide : wellFormed (.aesKeysetup 16 65536) = false := by decide

theorem test_sched_too_wide : wellFormed (.aesRkread 256 0) = false := by decide

theorem test_rk_index_too_wide : wellFormed (.aesRkread 0 65536) = false := by decide

theorem test_len_too_wide : wellFormed (.shaUpdate 256) = false := by decide

theorem test_table_too_wide : wellFormed (.tblRead 256 0) = false := by decide

theorem test_tbl_index_too_wide : wellFormed (.tblRead 0 65536) = false := by decide

/-! ### Decoding: words of V-ENC, V-CTL-6 and R94 -/

theorem test_decode_nop : decode 0x00000000 = .ok .nop := by rfl

theorem test_decode_keysetup : decode 0x01002010 = .ok (.aesKeysetup 32 256) := by rfl

theorem test_decode_encrypt : decode 0x00000011 = .ok .aesEncrypt := by rfl

theorem test_decode_decrypt : decode 0x00000012 = .ok .aesDecrypt := by rfl

theorem test_decode_rkread : decode 0x002B0013 = .ok (.aesRkread 0 43) := by rfl

theorem test_decode_sha_start : decode 0x00000020 = .ok .shaStart := by rfl

theorem test_decode_sha_update : decode 0x00001E21 = .ok (.shaUpdate 30) := by rfl

theorem test_decode_sha_finish : decode 0x00000022 = .ok .shaFinish := by rfl

theorem test_decode_tbl_read : decode 0x00091030 = .ok (.tblRead 16 9) := by rfl

theorem test_decode_reserved_opcode : decode 0x00000055 = .error .reservedOpcode := by rfl

theorem test_decode_reserved_field : decode 0x00010321 = .error .reservedField := by rfl

theorem test_decode_table_word : decodeTableWord 32 0x00530230 = some (.tblRead 2 0x53) := by decide

/-- The placed word runs in the very next step. -/
theorem test_placed_word_runs : (stepped (State.reset.withFetchWord 32 0x00530230)).regs.rdata = 0x000000ED := by
  decide +kernel

/-! ### Commands -/

/-- R245: `run nop` after the generator's step. -/
theorem test_nop_status : (after .nop ready).statusWord = 0x00000102 := by decide +kernel

/-- V-AES-1: the last round key of FIPS-197 A.1, and its first transformed one. -/
theorem test_keysetup_a1 :
    let s := after (.aesKeysetup 16 128)
      { ready with snap := { operands with key := #v[0x2B7E1516, 0x28AED2A6, 0xABF71588, 0x09CF4F3C, 1, 2, 3, 4] } }
    s.statusWord = 0x0000A302 ∧ roundKey s.aes.erk 10 = #v[0xD014F9A8, 0xC9EE2589, 0xE13F0CC8, 0xB6630CA6] ∧
      roundKey s.aes.drk 1 = #v[0x0C7B5A63, 0x1319EAFE, 0xB0398890, 0x664CFBB4] := by
  decide +kernel

/-- V-AES-12: a byte count that does not match unkeys the core. -/
theorem test_keysetup_refused : (after (.aesKeysetup 24 128) keyed).statusWord = 0x00000112 := by decide +kernel

/-- V-AES-5, C.1. -/
theorem test_encrypt_c1 : (after .aesEncrypt keyed).regs.dout = #v[0x69C4E0D8, 0x6A7B0430, 0xD8CDB780, 0x70B4C55A] := by
  decide +kernel

/-- V-AES-8: the all-zero block under the all-zero 256-bit key. -/
theorem test_encrypt_zero_256 :
    (after .aesEncrypt (after (.aesKeysetup 32 256) ready)).regs.dout =
      #v[0xDC95C078, 0xA2408989, 0xAD48A214, 0x92842087] := by
  decide +kernel

/-- V-CTL-4: the decryption of the plaintext of C.1. -/
theorem test_decrypt_c1 : (after .aesDecrypt keyed).regs.dout = #v[0x762A5AB5, 0x0929189C, 0xEFDB9943, 0x4790AAD8] := by
  decide +kernel

/-- V-AES-9: the all-zero block under the all-zero 192-bit key. -/
theorem test_decrypt_zero_192 :
    (after .aesDecrypt (after (.aesKeysetup 24 192) ready)).regs.dout =
      #v[0x13460E87, 0xA8FC023E, 0xF2501AFE, 0x7FF51C51] := by
  decide +kernel

/-- P1: the last word of the encryption schedule. -/
theorem test_rkread_erk : (after (.aesRkread 0 43) keyed).regs.rdata = 0x4D2B30C5 := by decide +kernel

/-- V-AES-12: UninitializedContext comes before the range check. -/
theorem test_rkread_unkeyed : (after (.aesRkread 5 0) ready).statusWord = 0x00000122 := by decide +kernel

/-- V-SHA-12. -/
theorem test_sha_start_status : (after .shaStart ready).statusWord = 0x00000502 := by decide +kernel

/-- P2, step 3. -/
theorem test_sha_update_status : hashing.statusWord = 0x00030902 := by decide +kernel

/-- V-SHA-11: four bytes overflow, three do not. -/
theorem test_sha_update_overflow :
    (after (.shaUpdate 4) brink).status.err = .counterOverflow ∧
      (after (.shaUpdate 3) brink).sha.total = 0x1FFFFFFFFFFFFFFF := by
  decide +kernel

/-- V-SHA-2. -/
theorem test_sha_finish_abc :
    (after .shaFinish hashing).regs.digest =
      #v[0xBA7816BF, 0x8F01CFEA, 0x414140DE, 0x5DAE2223, 0xB00361A3, 0x96177A9C, 0xB410FF61, 0xF20015AD] := by
  decide +kernel

/-- V-SHA-1, and V-SHA-12 for the status. -/
theorem test_sha_finish_empty :
    (after .shaFinish (after .shaStart ready)).statusWord = 0x00000D02 ∧
      (after .shaFinish (after .shaStart ready)).regs.digest[0] = 0xE3B0C442 := by
  decide +kernel

/-- V-GF-10. -/
theorem test_tbl_read_ft0 : (after (.tblRead 4 0x53) ready).regs.rdata = 0xC1EDED2C := by decide +kernel

/-- V-GF-10. -/
theorem test_tbl_read_past_rcon : (after (.tblRead 16 10) ready).statusWord = 0x00000162 := by decide +kernel

/-! ### The port -/

/-- V-CTL-3. -/
theorem test_status_write_clears :
    (stepped { hashing with inputs := [hostWr 0x04 0x00000006] }).statusWord = 0x00030900 ∧
      (stepped { hashing with inputs := [hostWr 0x04 0xFFFFFFF9] }).statusWord = 0x00030902 := by
  decide +kernel

/-- V-CTL-2: a command accepted before the tables are ready is held. -/
theorem test_held_command :
    (stepped { State.reset with inputs := [hostWr 0x00 0x01002010] }).statusWord = 0x00000001 ∧
      (stepped (stepped { State.reset with inputs := [hostWr 0x00 0x01002010] })).statusWord = 0x00000101 := by
  decide +kernel

/-- V-CTL-2 as the host program `run aes.keysetup 256, 32` (R99): its `wait` reads BUSY = 1 on both sides of the generator's step, and
ends at the first read after the completion. It may neither end earlier nor read once more. -/
theorem test_wait_ends_when_busy_reads_0 :
    let p := hostRun (.command (.aesKeysetup 32 256))
    let w := hostWr 0x00 0x01002010
    let r := hostRd 0x04
    hostPlays [w, r, .idle, r, .idle, r] p State.reset = true ∧ hostPlays [w, r, .idle, r] p State.reset = false ∧
      hostPlays [w, .idle, .idle, r, r] p State.reset = false := by
  decide +kernel

/-- R97: `.word` gives the raw value, here the illegal word of V-CTL-6. -/
theorem test_word_mnemonic : hostCmd (.word 0x00000055) = .wr 0x00 0x00000055 := by rfl

/-- V-CTL-7: a byte read gets a bus error. -/
theorem test_byte_read_is_refused :
    (stepped { ready with inputs := [.access { op := .read, off := 0x0C, width := 1 }] }).response = some .busError := by
  decide +kernel

/-! ### Witnesses: states and operands that meet the hypotheses of the obligations, clause by clause -/

theorem witness_EncodedCommandDecodesBack :
    wellFormed (.aesKeysetup 255 65535) = true ∧ wellFormed (.shaUpdate 255) = true := by
  decide

theorem witness_DecodedWordEncodesBack : decode 0xFFFFFF30 = .ok (.tblRead 255 65535) := by rfl

theorem witness_StepRunsDecodedCommand :
    let s := pendingWord ready 0x00004021
    s.tblReady = true ∧ s.busy = true ∧ decode s.pending = .ok (.shaUpdate 64) ∧ s.inputs = [] ∧
      (s.withInputs [.idle, .reset]).inputs = [.idle, .reset] := by
  exact ⟨rfl, rfl, rfl, rfl, rfl⟩

theorem witness_AcceptanceTakesIllegalWords : illegalWord (pendingWord ready 0x00000055).pending := by decide

theorem witness_IllegalWordCompletesWithCodeFive :
    let s := ready.withInputs [hostWr 0x00 0x00010321, .idle]
    illegalWord 0x00010321 ∧ illegalWord 0x000000FF ∧ illegalWord 0x80000022 ∧ s.busy = false ∧ s.tblReady = true ∧
      s.inputs = hostWr 0x00 0x00010321 :: .idle :: [] := by
  decide

theorem witness_AcceptanceTakesWordAndOperands :
    let s := State.reset.withInputs [hostWr 0x00 0xFFFFFFFF]
    s.busy = false ∧ s.inputs = hostWr 0x00 0xFFFFFFFF :: [] := by
  decide

theorem witness_CmdWriteWhileBusyIsDropped :
    let s := { (pendingWord ready 0).withInputs [hostWr 0x00 1] with status := { StatusFlags.reset with overrun := true } }
    (s.busy = true ∧ s.inputs = hostWr 0x00 1 :: []) ∧
      (s.status.overrun = true ∧
        ∃ t, step (s.withInputs [hostWr 0x04 0x00000004]) = .next t ∧ t.status.overrun = false) :=
  ⟨by decide, rfl, answers _ (by decide +kernel)⟩

theorem witness_PendingCommandIsHeldUntilTablesReady :
    let s := pendingWord State.reset 0x00000055
    s.tblReady = false ∧ s.busy = true ∧ s.inputs.head? ≠ some .reset ∧ (∃ t, step s = .next t ∧ t.tblReady = true) ∧
      ∃ t, step (s.withInputs [hostRd 0xFC]) = .next t ∧ t.tblReady = false :=
  ⟨rfl, rfl, by decide, answers _ (by decide +kernel), answers _ (by decide +kernel)⟩

theorem witness_TablesStayReadyUntilReset :
    (∃ t, step (ready.withInputs [.reset]) = .next t ∧ ready.tblReady = true ∧ t.tblReady = false) ∧
      ∃ t, step State.reset = .next t ∧ State.reset.tblReady = false ∧ t.tblReady = true :=
  ⟨answers _ (by decide +kernel), answers _ (by decide +kernel)⟩

theorem witness_AcceptedCommandCompletes :
    let s := (pendingWord State.reset 0x00000011).withInputs [hostRd 0x04, .idle]
    let u := State.reset.withInputs [hostWr 0x00 0x00000055, hostRd 0x04, .idle, hostRd 0x04, .idle, hostRd 0x04]
    (s.busy = true ∧ ∀ e ∈ s.inputs, e ≠ .reset) ∧
      u.busy = false ∧ hostPlays u.inputs (hostRun (.word 0x00000055)) u = true := by
  decide +kernel

theorem witness_OutputsChangeOnlyAtCompletion :
    (∃ t, step (keyed.withInputs [hostWr 0x30 1]) = .next t ∧ keyed.busy = false ∧ 0x40 ≤ 0x4C ∧ 0x4C < 0x50 ∧
      0x90 ≤ 0xB0 ∧ 0xB0 < 0xB4) ∧
      (keyed.withInputs [hostWr 0x30 1]).inputs.head? ≠ some .reset ∧
      ∃ t, step (pendingWord State.reset 0) = .next t ∧ t.busy = true :=
  ⟨answers _ (by decide +kernel), by decide, answers _ (by decide +kernel)⟩

theorem witness_HostAccessLeavesPendingCommand :
    let a : BusAccess := { op := .write 1, off := 0x10, width := 4 }
    let s := (pendingWord ready 0x00801010).withInputs [.access a]
    s.busy = true ∧ s.inputs = .access a :: [] := by
  decide

theorem witness_CommandsComputeFromTheSnapshot :
    ∃ t, exec .aesEncrypt keyed = .next t ∧ t.regs.dout[0] = 0x69C4E0D8 :=
  answers _ (by decide +kernel)

theorem witness_BackToBackCommandsHaveBothOutcomes :
    keyed.busy = false ∧ keyed.tblReady = true ∧
      (keyed.withInputs [hostWr 0x00 0x00000011, hostWr 0x00 0x00000012]).inputs =
        hostWr 0x00 0x00000011 :: hostWr 0x00 0x00000012 :: [] ∧
      (keyed.withInputs [hostWr 0x00 0x00000011, .idle, hostWr 0x00 0x00000012]).inputs =
        hostWr 0x00 0x00000011 :: .idle :: hostWr 0x00 0x00000012 :: [] := by
  decide +kernel

/-- A byte access, and one whose address is one below a multiple of 4. -/
theorem witness_RefusedAccessChangesNothing :
    (1 ≠ 4 ∧ (ready.withInputs [.access { op := .read, off := 0x0C, width := 1 }]).inputs =
      .access { op := .read, off := 0x0C, width := 1 } :: []) ∧
    ∃ off : BitVec 8, (Config.base + off.toNat) % 4 ≠ 0 ∧
      (ready.withInputs [.access { op := .write 0, off := off, width := 4 }]).inputs =
        .access { op := .write 0, off := off, width := 4 } :: [] := by
  refine ⟨by decide, 0x03, ?_, rfl⟩
  have h : (0x03 : BitVec 8).toNat = 3 := by decide
  rw [h, Config.base]
  omega

theorem witness_ReadsHaveNoSideEffectAndWritesRepeat :
    let a : PortEvent := .access { op := .read, off := 0xFF, width := 3 }
    let b : PortEvent := .access { op := .read, off := 0xFC, width := 4 }
    ((ready.withInputs [a, a]).inputs = a :: [a] ∧
      (ready.withInputs [b]).inputs = b :: [] ∧ 4 = 4 ∧ (0xFC : BitVec 8).toNat % 4 = 0) ∧
    (7 < 8 ∧ 3 < 4 ∧ 15 < 16) ∧
    (0x04 % 4 = 0 ∧ 0x00 < 0x04 ∧ 0x04 < 0x100 ∧ 0xFC % 4 = 0 ∧ 0xFC < 0x100 ∧
      (ready.withInputs [hostWr 0x04 6, hostWr 0x04 6]).inputs = hostWr 0x04 6 :: hostWr 0x04 6 :: []) ∧
    ready.busy = false ∧ (ready.withInputs [hostWr 0x00 0, hostWr 0x00 0]).inputs = hostWr 0x00 0 :: hostWr 0x00 0 :: [] := by
  decide

theorem witness_OperandRegistersHoldWhatIsWritten :
    (∀ off ∈ [0x10, 0x3C, 0x50, 0x8C], off % 4 = 0 ∧ ((0x10 ≤ off ∧ off < 0x40) ∨ (0x50 ≤ off ∧ off < 0x90))) ∧
      (ready.withInputs [hostWr 0x8C 7]).inputs = hostWr 0x8C 7 :: [] ∧ 0xFC % 4 = 0 ∧ 0xFC < 0x100 ∧ 0xFC ≠ 0x8C := by
  decide

theorem witness_ReadOnlyAndReservedBitsIgnoreWrites :
    (∀ off ∈ [0xB4, 0xFC], off % 4 = 0 ∧ 0xB4 ≤ off ∧ off < 0x100) ∧
      (∀ off ∈ [0x0C, 0x40, 0x4C, 0x90, 0xB0, 0xB4, 0xFC],
        off % 4 = 0 ∧ (off = 0x0C ∨ (0x40 ≤ off ∧ off < 0x50) ∨ (0x90 ≤ off ∧ off < 0x100))) ∧
      (ready.withInputs [hostWr 0xFC 1]).inputs = hostWr 0xFC 1 :: [] ∧ (22 ≤ 31 ∧ 1 ≤ 31) ∧
      (ready.withInputs [hostWr 0x08 1]).inputs = hostWr 0x08 1 :: [] := by
  decide

theorem witness_StatusWriteClearsDoneAndOverrun :
    (keyed.withInputs [hostWr 0x04 0xFFFFFFFF]).inputs = hostWr 0x04 0xFFFFFFFF :: [] := by
  rfl

theorem witness_StatusReadGivesItsFields : (keyed.withInputs [hostRd 0x04]).inputs = hostRd 0x04 :: [] := by rfl

theorem witness_WindowIsDecodedFromBase :
    0xFF < 0x100 ∧ (Config.base + 0x100 < Config.base ∨ Config.base + 0x100 ≤ Config.base + 0x100) :=
  ⟨by decide, .inr (Nat.le_refl _)⟩

theorem witness_InterruptRisesAndFallsAsListed :
    let s := { pendingWord ready 0 with regs := { HostRegs.reset with ie := true } }
    (∃ t, step s = .next t ∧ s.irq = false ∧ t.irq = true) ∧
      ∃ t, step ((after .nop s).withInputs [hostWr 0x04 2]) = .next t ∧
        ((after .nop s).withInputs [hostWr 0x04 2]).irq = true ∧ t.irq = false :=
  ⟨answers _ (by decide +kernel), answers _ (by decide +kernel)⟩

theorem witness_FailedCommandChangesOnlyStatus :
    (∃ t, exec .shaFinish ready = .next t ∧ t.status.err ≠ .none) ∧
      ∃ t, exec (.aesKeysetup 32 128) keyed = .next t ∧ t.status.err ≠ .none :=
  ⟨answers _ (by decide +kernel), answers _ (by decide +kernel)⟩

theorem witness_CommandsRaiseOnlyTheirErrors :
    (∃ t, exec (.shaUpdate 4) brink = .next t ∧ t.status.err = .counterOverflow) ∧
      ∃ t, complete (pendingWord ready 0x00000055) = .next t ∧ t.status.err = .illegalCommand :=
  ⟨answers _ (by decide +kernel), answers _ (by decide +kernel)⟩

theorem witness_ErrorsComeInTheirOrder :
    ready.aes.nr = .unkeyed ∧ (keyed.aes.nr ≠ .unkeyed ∧ 2 > 1 ∧ 44 ≥ 4 * (keyed.aes.nr.num + 1)) ∧
      ready.sha.state = .unstarted ∧ (after .shaFinish hashing).sha.state = .final ∧
      (hashing.sha.state = .accum ∧ 64 < 65) ∧ (after .shaStart ready).sha.state = .idle ∧
      (brink.sha.state = .accum ∧ 4 ≤ 64 ∧ brink.sha.total.toNat + 4 > 2 ^ 61 - 1) ∧
      17 > 16 ∧ (16 = 16 ∧ 10 > 9) ∧ (15 < 16 ∧ 256 > 255) := by
  decide +kernel

theorem witness_CompletionKeepsTheHostSide : ∃ t, exec .aesDecrypt keyed = .next t ∧ t.status.done = true :=
  answers _ (by decide +kernel)

theorem witness_OnlyNamedCommandsWriteOutputsAndContexts : ∃ t, exec .nop hashing = .next t ∧ t.sha.count = 3 :=
  answers _ (by decide +kernel)

theorem witness_CipherCommandsKeepTheKeyAndRepeat :
    (∃ t, exec .aesEncrypt keyed = .next t ∧ t.aes.nr = .r10) ∧
      (∃ t, exec .aesDecrypt keyed = .next t ∧ t.aes.nr = .r10) ∧
      ({ Snapshot.reset with din := operands.din } : Snapshot).din = keyed.snap.din :=
  ⟨answers _ (by decide +kernel), answers _ (by decide +kernel), by decide +kernel⟩

theorem witness_PowAndLogTables :
    ((0x7F : Byte).toNat < 128 ∧ ¬(0x80 : Byte).toNat < 128) ∧ 0 < 255 ∧ 254 < 255 := by
  decide

theorem witness_SboxTables :
    ((0x00 : Byte) = if (0x00 : Byte) = 0 then 0x00 else pow (255 - (log 0x00).toNat)) ∧
      ((0xCA : Byte) = if (0x53 : Byte) = 0 then 0x00 else pow (255 - (log 0x53).toNat)) ∧ 1 ≤ 1 ∧ 1 ≤ 3 ∧ 3 ≤ 3 := by
  decide +kernel

theorem witness_TransformTables : 0 ≤ 3 ∧ 3 ≤ 3 := by decide

theorem witness_TblReadReturnsTheEntry : (15 < 16 ∧ 255 ≤ 255) ∧ (16 = 16 ∧ 9 ≤ 9) := by decide

theorem witness_KeysetupExpandsTheKey :
    (4 = 4 ∧ 10 = 10) ∧ (6 = 6 ∧ 12 = 12) ∧ (8 = 8 ∧ 14 = 14) ∧ 7 < 8 ∧ (8 ≤ 59 ∧ 59 < 4 * (14 + 1)) ∧ 3 < 4 ∧
      (1 ≤ 13 ∧ 13 ≤ 14 - 1) ∧ 4 * (10 + 1) ≤ 44 := by
  decide

theorem witness_RefusedKeysetupUnkeysTheCore :
    (¬((128 = 128 ∨ 128 = 192 ∨ 128 = 256) ∧ 24 = 128 / 8) ∧ ¬((0 = 128 ∨ 0 = 192 ∨ 0 = 256) ∧ 0 = 0 / 8)) ∧
      ready.aes.nr = .unkeyed ∧ ∃ t, step (pendingWord ready 0x00C01810) = .next t ∧ t.aes.nr ≠ .unkeyed :=
  ⟨by decide, rfl, answers _ (by decide +kernel)⟩

theorem witness_EncryptComputesTheFips197Cipher : keyed.aes.nr ≠ .unkeyed := by decide +kernel

theorem witness_DecryptInvertsTheFips197Cipher : keyed.aes.nr ≠ .unkeyed ∧ keyed.aes.scheduled := by decide +kernel

theorem witness_DecryptUndoesEncrypt : ∀ n ∈ [128, 192, 256], n = 128 ∨ n = 192 ∨ n = 256 := by decide

theorem witness_RkreadReturnsTheRoundKeyWord :
    keyed.aes.nr ≠ .unkeyed ∧ 0 ≤ 1 ∧ 1 ≤ 1 ∧ 43 < 4 * (keyed.aes.nr.num + 1) := by
  decide +kernel

theorem witness_MessageScheduleRecurrence :
    (List.replicate 64 (0xFF : Byte)).length = 64 ∧ 15 < 16 ∧ (16 ≤ 16 ∧ 16 < 64) ∧ (16 ≤ 63 ∧ 63 < 64) := by
  decide

theorem witness_CompressionRunsTheRounds : (List.replicate 64 (0xFF : Byte)).length = 64 ∧ 0 < 64 ∧ 63 < 64 := by decide

/-- The running context holds the message abc. -/
theorem hashing_holds : Sha256.Holds hashing.sha [0x61, 0x62, 0x63] := by
  constructor <;> decide +kernel

theorem witness_ShaUpdateAbsorbsTheWindow :
    Sha256.Holds hashing.sha [0x61, 0x62, 0x63] ∧ 64 ≤ 64 ∧ 0 ≤ 64 ∧ [(0x61 : Byte), 0x62, 0x63].length + 64 ≤ 2 ^ 61 - 1 :=
  ⟨hashing_holds, by decide, by decide, by decide⟩

theorem witness_ShaFinishOutputsTheDigest :
    Sha256.Holds hashing.sha [0x61, 0x62, 0x63] ∧ Sha256.Holds (after .shaStart ready).sha [] :=
  ⟨hashing_holds, by constructor <;> decide +kernel⟩

theorem witness_DigestDependsOnlyOnTheBytes :
    (Sha256.updateBytes [(operands, 3), (operands, 65), (operands, 64), (operands, 0)]).length ≤ 2 ^ 61 - 1 := by
  decide +kernel

theorem witness_ShaStateTransitions :
    ready.sha.state = .unstarted ∧ (after .shaFinish hashing).sha.state = .final ∧
      ((after .shaStart ready).sha.state = .idle ∧ (after .shaStart ready).sha.consistent) ∧
      (hashing.sha.state = .accum ∧ hashing.sha.total.toNat ≤ 2 ^ 61 - 1) ∧ (0 < 1 ∧ 1 ≤ 64) ∧ 64 ≤ 64 ∧ 64 < 65 := by
  decide +kernel

theorem witness_LengthCounterNeverWraps :
    (brink.sha.state = .accum ∧ 4 ≤ 64 ∧ brink.sha.total.toNat + 4 > 2 ^ 61 - 1) ∧
      (∃ t, exec (.shaUpdate 3) brink = .next t ∧ t.status.err = .none) ∧
      ∃ t, exec (.shaUpdate 4) brink = .next t ∧ t.status.err ≠ .none :=
  ⟨by decide +kernel, answers _ (by decide +kernel), answers _ (by decide +kernel)⟩

/-- Sixty-five bytes, so two pieces: the first `wait` ending at its second read,
the second at its first, with slots of the core between the writes. -/
theorem witness_ShaBytesAbsorbsAnyLength :
    let b : List Byte := List.replicate 65 0x61
    let piece (n : Nat) : List PortEvent := (hostMsg (packWords (List.replicate n 0x61))).map HostAction.event
    let es := .idle :: piece 64 ++ .idle :: hostWr 0x00 0x00004021 :: hostRd 0x04 :: .idle :: hostRd 0x04 ::
      piece 1 ++ [hostWr 0x00 0x00000121, .idle, .idle, hostRd 0x04, .idle]
    let s := hashing.withInputs es
    s.busy = false ∧ s.status.err = .none ∧ Sha256.Holds s.sha [0x61, 0x62, 0x63] ∧
      [(0x61 : Byte), 0x62, 0x63].length + b.length ≤ 2 ^ 61 - 1 ∧ hostPlays s.inputs (hostShaBytes b) s = true :=
  ⟨by decide +kernel, by decide +kernel, hashing_holds, by decide, by decide +kernel⟩

theorem witness_ResetGivesTheResetValues :
    ((pendingWord keyed 0).withInputs [.reset, .idle]).inputs = .reset :: [.idle] ∧ 0xFC % 4 = 0 ∧ 0xFC < 0x100 := by
  decide +kernel

/-- A keyed core with a running hash and a command pending meets the invariant. -/
theorem witness_StepKeepsTheInvariant :
    let s := { pendingWord keyed 0x00000012 with status := .reset, sha := hashing.sha }
    CoreInvariant s ∧ ∃ t, step s = .next t ∧ t.status.done = true :=
  ⟨by constructor <;> decide +kernel, answers _ (by decide +kernel)⟩

/-- Two states that differ in a word above the schedule, the pending word, and a buffer byte above the count. -/
theorem witness_UnobservableStateNeverShows :
    let s := { keyed with sha := hashing.sha }
    let t := { s with
      pending := 1
      aes := { s.aes with erk := s.aes.erk.set 44 1 }
      sha := { s.sha with buf := s.sha.buf.set 3 1 } }
    s ≠ t ∧ s.Same t ∧ ∃ s', step s = .next s' ∧ s'.busy = false :=
  ⟨by decide +kernel, by constructor <;> first | decide +kernel | (constructor <;> decide +kernel),
    answers _ (by decide +kernel)⟩

theorem witness_DutifulHostSeesNoOverrunOrBusError :
    let s := keyed.withInputs [hostWr 0x00 0x00000011]
    s.clean ∧ s.dutiful ∧ ∃ t, step s = .next t ∧ t.busy = true := by
  refine ⟨by decide +kernel, ?_, answers _ (by decide +kernel)⟩
  intro a h
  injection h with h
  injection h with h
  subst h
  exact ⟨by decide, fun _ _ _ => by decide +kernel⟩

end Sys2Proof.Tests
end

section
/-! SUPPORT. The key schedules: what ExpandKey and DeriveDecryptionKeys leave in each word (41_aes.md R155, R157), so that the two
schedules are those of one key, whatever the stores held before. -/

namespace Sys2Proof.Machine

/-- AES_KEYSETUP takes a key only of 4, 6 or 8 words. -/
theorem keyWords_of_keyLengthOk {keybytes bitlen : Nat} (h : keyLengthOk keybytes bitlen = true) :
    bitlen / 32 = 4 ∨ bitlen / 32 = 6 ∨ bitlen / 32 = 8 := by
  simp only [keyLengthOk, Bool.and_eq_true, Bool.or_eq_true, decide_eq_true_eq] at h
  omega

theorem num_roundsOf {nk : Nat} (h : nk = 4 ∨ nk = 6 ∨ nk = 8) : (roundsOf (nk + 6)).num = nk + 6 := by
  rcases h with rfl | rfl | rfl <;> rfl

/-- Loading the key writes the key words and no other word. -/
theorem wordAt_loadKey (sn : Snapshot) (erk : RkStore) (nk j : Nat) (hn : nk ≤ 60) :
    wordAt ((List.range nk).foldl (fun e i => e.setIfInBounds i (sn.keyWord i)) erk) j =
      if j < nk then sn.keyWord j else wordAt erk j := by
  induction nk with
  | zero => simp
  | succ n ih =>
    rw [List.range_succ, List.foldl_append, List.foldl_cons, List.foldl_nil, wordAt_setIfInBounds, ih (by omega)]
    by_cases hj : j = n
    · simp [hj, show n < 60 by omega]
    · simp [hj, show j < n + 1 ↔ j < n by omega]

/-- A turn of the expansion leaves the words below the one it writes. -/
theorem wordAt_expandStep_of_lt {nk i j : Nat} (erk : RkStore) (h : j < i) :
    wordAt (expandStep nk erk i) j = wordAt erk j := by
  rw [expandStep, wordAt_setIfInBounds, if_neg (by omega)]

theorem wordAt_expandStep_self {nk i : Nat} (erk : RkStore) (h : i < 60) :
    wordAt (expandStep nk erk i) i = wordAt erk (i - nk) ^^^ expandTransform nk i (wordAt erk (i - 1)) := by
  rw [expandStep, wordAt_setIfInBounds, if_pos ⟨rfl, h⟩]

/-- The loop of ExpandKey leaves the words below its first index. -/
theorem wordAt_expandLoop_of_lt {nk a m j : Nat} (erk : RkStore) (h : j < a) :
    wordAt ((List.range' a m).foldl (expandStep nk) erk) j = wordAt erk j := by
  induction m with
  | zero => rfl
  | succ m ih =>
    rw [List.range'_1_concat, List.foldl_append, List.foldl_cons, List.foldl_nil, wordAt_expandStep_of_lt _ (by omega), ih]

/-- Every word the loop of ExpandKey writes is made from the final words before it: a turn reads and leaves only words below. -/
theorem wordAt_expandLoop {nk a m i : Nat} (erk : RkStore) (hnk : 0 < nk) (ha : nk ≤ a) (hm : a + m ≤ 60) (hai : a ≤ i)
    (him : i < a + m) :
    let e := (List.range' a m).foldl (expandStep nk) erk
    wordAt e i = wordAt e (i - nk) ^^^ expandTransform nk i (wordAt e (i - 1)) := by
  induction m with
  | zero => omega
  | succ m ih =>
    simp only [List.range'_1_concat, List.foldl_append, List.foldl_cons, List.foldl_nil]
    rw [wordAt_expandStep_of_lt _ (show i - nk < a + m by omega), wordAt_expandStep_of_lt _ (show i - 1 < a + m by omega)]
    by_cases hi : i = a + m
    · subst hi
      rw [wordAt_expandStep_self _ (by omega)]
    · rw [wordAt_expandStep_of_lt _ (show i < a + m by omega)]
      exact ih (by omega) (by omega)

section
variable {nk n : Nat} (sn : Snapshot) (erk : RkStore)

/-- The first words of the expanded key are the key words. -/
theorem wordAt_expandKey_key (hn : nk ≤ 60) {i : Nat} (hi : i < nk) : wordAt (expandKey nk n sn erk) i = sn.keyWord i := by
  rw [expandKey, wordAt_expandLoop_of_lt _ hi, wordAt_loadKey _ _ _ _ hn, if_pos hi]

/-- The later words of the expanded key follow the recurrence of R155. -/
theorem wordAt_expandKey_step (hnk : 0 < nk) (hn : 4 * (n + 1) ≤ 60) {i : Nat} (hki : nk ≤ i) (hi : i < 4 * (n + 1)) :
    wordAt (expandKey nk n sn erk) i =
      wordAt (expandKey nk n sn erk) (i - nk) ^^^ expandTransform nk i (wordAt (expandKey nk n sn erk) (i - 1)) :=
  wordAt_expandLoop _ hnk (Nat.le_refl nk) (by omega) hki (by omega)

/-- The expanded key comes from the key alone: what the store held before shows in none of its words. -/
theorem wordAt_expandKey_congr (erk' : RkStore) (hnk : 0 < nk) (hk : nk ≤ 60) (hn : 4 * (n + 1) ≤ 60) {i : Nat}
    (hi : i < 4 * (n + 1)) : wordAt (expandKey nk n sn erk) i = wordAt (expandKey nk n sn erk') i := by
  induction i using Nat.strong_induction_on with
  | _ i ih =>
    by_cases hki : i < nk
    · rw [wordAt_expandKey_key _ _ hk hki, wordAt_expandKey_key _ _ hk hki]
    · rw [wordAt_expandKey_step _ _ hnk hn (by omega) hi, wordAt_expandKey_step _ _ hnk hn (by omega) hi,
        ih (i - nk) (by omega) (by omega), ih (i - 1) (by omega) (by omega)]

end

/-- The decryption schedule below `4(n+1)` is the one derived from the encryption schedule. -/
theorem wordAt_deriveDecryptionKeys {n i : Nat} (erk drk : RkStore) (hn : 4 * (n + 1) ≤ 60) (hi : i < 4 * (n + 1)) :
    wordAt (deriveDecryptionKeys n erk drk) i = decryptionWord n erk i := by
  rw [deriveDecryptionKeys, wordAt_ofFn, dif_pos (show i < 60 by omega), if_pos hi]

/-- A word of the decryption schedule is made from a word of the encryption schedule in reach. -/
theorem decryptionWord_congr {n i : Nat} {erk erk' : RkStore} (h : ∀ j < 4 * (n + 1), wordAt erk j = wordAt erk' j)
    (hi : i < 4 * (n + 1)) : decryptionWord n erk i = decryptionWord n erk' i := by
  simp only [decryptionWord, h (4 * (n - i / 4) + i % 4) (by omega)]

/-- The AES context that a successful AES_KEYSETUP with a key of `nk` words leaves (41_aes.md R154). -/
def AesContext.rekeyed (a : AesContext) (nk : Nat) (sn : Snapshot) : AesContext :=
  { nr := roundsOf (nk + 6)
    erk := expandKey nk (nk + 6) sn a.erk
    drk := deriveDecryptionKeys (nk + 6) (expandKey nk (nk + 6) sn a.erk) a.drk }

theorem execAesKeysetup_of_keyLengthOk {keybytes bitlen : Nat} {s : State} (h : keyLengthOk keybytes bitlen = true) :
    execAesKeysetup keybytes bitlen s = succeed (s.setAes (s.aes.rekeyed (bitlen / 32) s.snap)) := by
  rw [execAesKeysetup, if_pos h]
  rfl

/-- AES_KEYSETUP with a good key length leaves the two schedules of the key in the snapshot. -/
theorem AesContext.scheduled_rekeyed (a : AesContext) {nk : Nat} (sn : Snapshot) (h : nk = 4 ∨ nk = 6 ∨ nk = 8) :
    (a.rekeyed nk sn).scheduled := by
  simp only [AesContext.scheduled, AesContext.rekeyed, num_roundsOf h, Nat.add_sub_cancel]
  exact ⟨fun i hi hki => wordAt_expandKey_step _ _ (by omega) (by omega) hki hi,
    fun i hi => wordAt_deriveDecryptionKeys _ _ (by omega) hi⟩

end Sys2Proof.Machine
end

section
/-! SUPPORT. The running SHA-256 context: what absorbing bytes does to its counts and its buffered bytes (42_sha256.md R207,
R208, R215). -/

namespace Sys2Proof.Machine

/-- The loop of SHA_UPDATE takes 64 bytes away in each turn. -/
theorem absorbBlocks_rest (n : Nat) (h : Vector Word 8) (m : List Byte) : (absorbBlocks n h m).2 = m.drop (64 * n) := by
  induction n generalizing h m with
  | zero => rfl
  | succ n ih =>
    rw [absorbBlocks, ih, List.drop_drop]
    congr 1
    omega

@[simp] theorem length_message (sn : Snapshot) (len : Nat) : (sn.message len).length = len := by
  simp [Snapshot.message]

namespace ShaContext

@[simp] theorem length_buffered (c : ShaContext) : c.buffered.length = c.count.toNat := by
  have hc := c.count.isLt
  simp only [buffered, List.length_take, Vector.length_toList]
  omega

theorem started_iff (c : ShaContext) : c.started = true ↔ c.state = .idle ∨ c.state = .accum := by
  simp [started]

@[simp] theorem absorb_h (c : ShaContext) (d : List Byte) :
    (c.absorb d).h = (absorbBlocks ((c.buffered ++ d).length / 64) c.h (c.buffered ++ d)).1 := rfl

@[simp] theorem absorb_state (c : ShaContext) (d : List Byte) : (c.absorb d).state = .accum := rfl

@[simp] theorem absorb_total (c : ShaContext) (d : List Byte) :
    (c.absorb d).total = c.total + BitVec.ofNat 64 d.length := rfl

/-- The bytes left over are fewer than 64, so the count field holds their number. -/
theorem absorb_count (c : ShaContext) (d : List Byte) :
    (c.absorb d).count = BitVec.ofNat 6 ((c.count.toNat + d.length) % 64) := by
  simp only [absorb, absorbBlocks_rest, List.length_drop, List.length_append, length_buffered]
  congr 1
  omega

/-- The count within the limit of R208 does not wrap. -/
theorem toNat_absorb_total {c : ShaContext} {d : List Byte} (h : c.total.toNat + d.length ≤ Config.shaMaxBytes) :
    (c.absorb d).total.toNat = c.total.toNat + d.length := by
  simp only [Config.shaMaxBytes] at h
  simp only [absorb_total, BitVec.toNat_add, BitVec.toNat_ofNat]
  omega

theorem toNat_absorb_count (c : ShaContext) (d : List Byte) :
    (c.absorb d).count.toNat = (c.count.toNat + d.length) % 64 := by
  simp only [absorb_count, BitVec.toNat_ofNat]
  omega

/-- Reading back what was stored at the start of the buffer. -/
theorem take_storeBytes (buf : Vector Byte 64) (m : List Byte) (h : m.length ≤ 64) :
    (storeBytes buf m).toList.take m.length = m := by
  apply List.ext_getElem
  · simp [h]
  · intro i hi hm
    simp [storeBytes, hm]

/-- After absorbing, the buffered bytes are the stream without its whole blocks. -/
theorem absorb_buffered (c : ShaContext) (d : List Byte) :
    (c.absorb d).buffered = (c.buffered ++ d).drop (64 * ((c.buffered ++ d).length / 64)) := by
  have hlt : ((c.buffered ++ d).drop (64 * ((c.buffered ++ d).length / 64))).length < 64 := by
    rw [List.length_drop]
    omega
  simp only [buffered, absorb, absorbBlocks_rest, BitVec.toNat_ofNat] at hlt ⊢
  rw [Nat.mod_eq_of_lt (by omega)]
  exact take_storeBytes _ _ (by omega)

/-- In a started context the buffered bytes are those of the message behind its whole blocks. -/
theorem consistent.count_eq {c : ShaContext} (h : c.consistent) (hs : c.started = true) :
    c.count.toNat = c.total.toNat % 64 := by
  obtain ⟨-, -, hidle, haccum, -⟩ := h
  rcases c.started_iff.mp hs with hi | ha
  · obtain ⟨-, ht, hc⟩ := hidle hi
    simp [ht, hc]
  · exact (haccum ha).2

/-- SHA_START leaves a context whose counts agree with its state. -/
theorem consistent_start (buf : Vector Byte 64) :
    ({ h := shaH0, total := 0, buf := buf, count := 0, state := .idle } : ShaContext).consistent := by
  simp [consistent]

/-- Absorbing at least one byte, within the limit, keeps the counts in step. -/
theorem consistent.absorb {c : ShaContext} {d : List Byte} (h : c.consistent) (hs : c.started = true) (hd : 0 < d.length)
    (hmax : c.total.toNat + d.length ≤ Config.shaMaxBytes) : (c.absorb d).consistent := by
  have hcount := h.count_eq hs
  have haccum : 0 < (c.absorb d).total.toNat ∧ (c.absorb d).count.toNat = (c.absorb d).total.toNat % 64 := by
    rw [toNat_absorb_total hmax, toNat_absorb_count]
    omega
  refine ⟨?_, ?_, ?_, fun _ => haccum, ?_⟩
  · rwa [toNat_absorb_total hmax]
  all_goals simp

/-- SHA_FINISH leaves the total as it was and no buffered byte. -/
theorem consistent.finish {c : ShaContext} (h : c.consistent) (d : Vector Word 8) :
    ({ c with h := d, count := 0, state := .final } : ShaContext).consistent := by
  obtain ⟨hmax, -⟩ := h
  simp [consistent, hmax]

end ShaContext

end Sys2Proof.Machine
end

section
/-! PROOFS. The invariant of the core: it holds at reset (O56) and every step keeps it (O57). -/

namespace Sys2Proof.Machine

namespace CoreInvariant

variable {s t : State}

/-- At reset nothing is pending, nothing has completed and both contexts are empty; the host's later events do not matter. -/
theorem resetTo (es : List PortEvent) : CoreInvariant (State.resetTo es) where
  pendingClean := nofun
  notReady _ := ⟨rfl, rfl, rfl, rfl, rfl, rfl, rfl⟩
  keyed h := (h rfl).elim
  hashing := by simp [State.resetTo, State.reset, ShaContext.reset, ShaContext.consistent]
  finished := nofun

/-- The invariant says nothing of what the host alone sets: IE, the operand registers, OVERRUN, and the two fields of the
port. -/
theorem hostSide (h : CoreInvariant s) (ie : Bool) (key : Vector Word 8) (din : Block) (msg : Vector Word 16) (overrun : Bool)
    (inputs : List PortEvent) (response : Option BusResponse) :
    CoreInvariant { s with
      regs := { s.regs with ie := ie, key := key, din := din, msg := msg }
      status := { s.status with overrun := overrun }
      inputs := inputs
      response := response } :=
  ⟨h.pendingClean, h.notReady, h.keyed, h.hashing, h.finished⟩

theorem withInputs (h : CoreInvariant s) (es : List PortEvent) : CoreInvariant (s.withInputs es) :=
  h.hostSide _ _ _ _ _ es _

theorem respond (h : CoreInvariant s) (r : BusResponse) : CoreInvariant (s.respond r) := h.hostSide _ _ _ _ _ _ (some r)

/-- Acceptance clears DONE and ERR. -/
theorem accept (h : CoreInvariant s) (c : Word) : CoreInvariant (s.accept c) where
  pendingClean _ := ⟨rfl, rfl⟩
  notReady hr := by
    obtain ⟨haes, hsha, -, -, houtputs⟩ := h.notReady hr
    exact ⟨haes, hsha, rfl, rfl, houtputs⟩
  keyed := h.keyed
  hashing := h.hashing
  finished := h.finished

/-- A STATUS write can only lower DONE. -/
theorem clearStatus (h : CoreInvariant s) (v : Word) : CoreInvariant (s.clearStatus v) where
  pendingClean hb := by
    obtain ⟨hdone, herr⟩ := h.pendingClean hb
    exact ⟨by simp [hdone], herr⟩
  notReady hr := by
    obtain ⟨haes, hsha, hdone, hrest⟩ := h.notReady hr
    exact ⟨haes, hsha, by simp [hdone], hrest⟩
  keyed := h.keyed
  hashing := h.hashing
  finished := h.finished

theorem writeReg (h : CoreInvariant s) (off : Nat) (v : Word) : CoreInvariant (writeReg s off v) := by
  rcases writeReg_cases s off v with ⟨-, -, hw⟩ | ⟨-, -, hw⟩ | ⟨-, hw⟩ | ⟨-, hw⟩ | ⟨-, hw⟩ | ⟨-, hw⟩ | ⟨-, hw⟩ |
    ⟨-, -, -, -, hw⟩ <;> rw [hw]
  · exact h.hostSide _ _ _ _ true _ _
  · exact h.accept v
  · exact h.clearStatus v
  · exact h.hostSide (v.getLsbD 0) _ _ _ _ _ _
  · exact h.hostSide _ (s.regs.key.setIfInBounds _ v) _ _ _ _ _
  · exact h.hostSide _ _ (s.regs.din.setIfInBounds _ v) _ _ _ _
  · exact h.hostSide _ _ _ (s.regs.msg.setIfInBounds _ v) _ _ _
  · exact h

theorem access (h : CoreInvariant s) (a : BusAccess) : CoreInvariant (s.access a) := by
  rcases access_cases s a with ⟨-, ha⟩ | ⟨-, -, ha⟩ | ⟨v, -, -, ha⟩ <;> rw [ha]
  · exact h.respond _
  · exact h.respond _
  · exact (h.writeReg _ v).respond _

/-- With the tables ready a completion has to answer for the contexts and the digest registers alone. -/
theorem finish {e : ErrCode} (hr : s.tblReady = true) (hkeyed : s.aes.nr ≠ .unkeyed → s.aes.scheduled)
    (hhash : s.sha.consistent) (hfin : s.sha.state = .final → s.regs.digest = s.sha.h) : CoreInvariant (s.finish e) where
  pendingClean := nofun
  notReady hn := by simp [hr] at hn
  keyed := hkeyed
  hashing := hhash
  finished := hfin

/-- A completion that leaves both contexts and the digest registers, as every failing command and most others do. -/
theorem finish_frame {e : ErrCode} (h : CoreInvariant s) (hr : t.tblReady = true) (haes : t.aes = s.aes)
    (hsha : t.sha = s.sha) (hdigest : t.regs.digest = s.regs.digest) : CoreInvariant (t.finish e) :=
  finish hr (haes ▸ h.keyed) (hsha ▸ h.hashing) (by rw [hsha, hdigest]; exact h.finished)

theorem execAesKeysetup (h : CoreInvariant s) (hr : s.tblReady = true) {keybytes bitlen : Nat}
    (ht : execAesKeysetup keybytes bitlen s = .next t) : CoreInvariant t := by
  rcases execAesKeysetup_cases ht with ⟨-, rfl⟩ | ⟨hk, -⟩
  · exact finish hr (fun hn => (hn rfl).elim) h.hashing h.finished
  · rw [execAesKeysetup_of_keyLengthOk hk] at ht
    obtain rfl := Host.Outcome.next.inj ht
    exact finish hr (fun _ => s.aes.scheduled_rekeyed s.snap (keyWords_of_keyLengthOk hk)) h.hashing h.finished

theorem execShaUpdate (h : CoreInvariant s) (hr : s.tblReady = true) {len : Nat}
    (ht : execShaUpdate len s = .next t) : CoreInvariant t := by
  rcases execShaUpdate_cases ht with ⟨-, rfl⟩ | ⟨-, -, rfl⟩ | ⟨-, -, -, rfl⟩ | ⟨-, -, -, rfl⟩ | ⟨hs, hpos, -, hmax, rfl⟩
  iterate 4 exact h.finish_frame hr rfl rfl rfl
  exact finish hr h.keyed (h.hashing.absorb hs (by simpa using hpos) (by simpa using hmax)) nofun

theorem execShaFinish (h : CoreInvariant s) (hr : s.tblReady = true) (ht : execShaFinish s = .next t) :
    CoreInvariant t := by
  rcases execShaFinish_cases ht with ⟨-, rfl⟩ | ⟨-, rfl⟩
  · exact h.finish_frame hr rfl rfl rfl
  · exact finish hr h.keyed (h.hashing.finish _) (fun _ => rfl)

/-- Every command keeps the invariant, once the tables are ready. -/
theorem exec (h : CoreInvariant s) (hr : s.tblReady = true) {i : Instr} (ht : exec i s = .next t) : CoreInvariant t := by
  cases i with
  | nop =>
    obtain rfl := Host.Outcome.next.inj ht
    exact h.finish_frame hr rfl rfl rfl
  | aesKeysetup keybytes bitlen => exact h.execAesKeysetup hr ht
  | aesEncrypt =>
    rcases execAesEncrypt_cases ht with ⟨-, rfl⟩ | ⟨-, rfl⟩ <;> exact h.finish_frame hr rfl rfl rfl
  | aesDecrypt =>
    rcases execAesDecrypt_cases ht with ⟨-, rfl⟩ | ⟨-, rfl⟩ <;> exact h.finish_frame hr rfl rfl rfl
  | aesRkread sched index =>
    rcases execAesRkread_cases ht with ⟨-, rfl⟩ | ⟨-, -, rfl⟩ | ⟨-, -, -, rfl⟩ <;> exact h.finish_frame hr rfl rfl rfl
  | shaStart =>
    obtain rfl := Host.Outcome.next.inj ht
    exact finish hr h.keyed (ShaContext.consistent_start _) nofun
  | shaUpdate len => exact h.execShaUpdate hr ht
  | shaFinish => exact h.execShaFinish hr ht
  | tblRead table index =>
    rcases execTblRead_cases ht with ⟨-, rfl⟩ | ⟨-, rfl⟩ <;> exact h.finish_frame hr rfl rfl rfl

/-- The generator's step ends the time in which nothing can have completed. -/
theorem tablesReady (h : CoreInvariant s) : CoreInvariant s.tablesReady where
  pendingClean := h.pendingClean
  notReady := nofun
  keyed := h.keyed
  hashing := h.hashing
  finished := h.finished

theorem internalStep (h : CoreInvariant s) (ht : internalStep s = .next t) : CoreInvariant t := by
  rcases internalStep_cases ht with ⟨-, rfl⟩ | ⟨hr, -, hc⟩ | ⟨-, -, rfl⟩
  · exact h.tablesReady
  · rcases complete_cases hc with ⟨i, -, hi⟩ | ⟨-, rfl⟩
    · exact h.exec hr hi
    · exact h.finish_frame hr rfl rfl rfl
  · exact h

theorem step (h : CoreInvariant s) (ht : step s = .next t) : CoreInvariant t := by
  rcases step_cases ht with ⟨-, hi⟩ | ⟨es, -, hi⟩ | ⟨es, -, rfl⟩ | ⟨a, es, -, rfl⟩
  · exact h.internalStep hi
  · exact (h.withInputs es).internalStep hi
  · exact resetTo es
  · exact (h.withInputs es).access a

end CoreInvariant

/-- Settles O56. -/
theorem invariantHoldsAtReset : Obligations.InvariantHoldsAtReset := CoreInvariant.resetTo []

/-- Settles O57, by the slot the step takes: the core's own step, a reset, or a host access. -/
theorem stepKeepsTheInvariant : Obligations.StepKeepsTheInvariant := fun _ _ h ht => h.step ht

end Sys2Proof.Machine
end

section
/-! PROOFS. States that differ only in what nothing can observe answer alike (O58): each unit's function reads only the words and
bytes in reach, so each command gives the same answer from both. -/

namespace Sys2Proof.Machine

/-! ### What the ciphers and the schedules read -/

/-- A round key in reach is the same in two stores that agree in reach. -/
theorem roundKey_congr {n r : Nat} {rk rk' : RkStore} (h : ∀ i < 4 * (n + 1), wordAt rk i = wordAt rk' i) (hr : r ≤ n) :
    roundKey rk r = roundKey rk' r := by
  simp only [roundKey, h (4 * r) (by omega), h (4 * r + 1) (by omega), h (4 * r + 2) (by omega), h (4 * r + 3) (by omega)]

/-- The inner rounds of a cipher read only round keys below `n`. -/
theorem foldl_rounds_congr {n : Nat} {rk rk' : RkStore} (h : ∀ i < 4 * (n + 1), wordAt rk i = wordAt rk' i)
    (round : Block → Block → Block) (x : Block) :
    (List.range' 1 (n - 1)).foldl (fun x r => round x (roundKey rk r)) x =
      (List.range' 1 (n - 1)).foldl (fun x r => round x (roundKey rk' r)) x := by
  apply List.foldl_ext
  intro y r hr
  rw [List.mem_range'_1] at hr
  rw [roundKey_congr h (by omega)]

theorem encryptBlock_congr {n : Nat} {rk rk' : RkStore} (h : ∀ i < 4 * (n + 1), wordAt rk i = wordAt rk' i) (p : Block) :
    encryptBlock n rk p = encryptBlock n rk' p := by
  simp only [encryptBlock, foldl_rounds_congr h fRound, roundKey_congr h (Nat.zero_le n), roundKey_congr h (Nat.le_refl n)]

theorem decryptBlock_congr {n : Nat} {rk rk' : RkStore} (h : ∀ i < 4 * (n + 1), wordAt rk i = wordAt rk' i) (c : Block) :
    decryptBlock n rk c = decryptBlock n rk' c := by
  simp only [decryptBlock, foldl_rounds_congr h rRound, roundKey_congr h (Nat.zero_le n), roundKey_congr h (Nat.le_refl n)]

/-- A new key makes the same schedules whatever the stores held before. -/
theorem AesContext.same_rekeyed (a b : AesContext) {nk : Nat} (sn : Snapshot) (h : nk = 4 ∨ nk = 6 ∨ nk = 8) :
    (a.rekeyed nk sn).Same (b.rekeyed nk sn) where
  nr := rfl
  words _ i hi := by
    simp only [AesContext.rekeyed, num_roundsOf h] at hi ⊢
    have herk : ∀ j < 4 * (nk + 6 + 1),
        wordAt (expandKey nk (nk + 6) sn a.erk) j = wordAt (expandKey nk (nk + 6) sn b.erk) j :=
      fun j hj => wordAt_expandKey_congr sn a.erk b.erk (by omega) (by omega) (by omega) hj
    refine ⟨herk i hi, ?_⟩
    rw [wordAt_deriveDecryptionKeys _ _ (by omega) hi, wordAt_deriveDecryptionKeys _ _ (by omega) hi,
      decryptionWord_congr herk hi]

/-- An unkeyed context has no word in reach. -/
theorem AesContext.same_unkeyed (a b : AesContext) :
    ({ a with nr := .unkeyed } : AesContext).Same { b with nr := .unkeyed } :=
  ⟨rfl, fun h => (h rfl).elim⟩

/-! ### What the SHA-256 unit reads -/

namespace ShaContext.Same

variable {c d : ShaContext}

theorem started (h : c.Same d) : c.started = d.started := by
  simp only [ShaContext.started, h.state]

/-- SHA_START leaves nothing of the old context in reach. -/
theorem start (buf buf' : Vector Byte 64) :
    ShaContext.Same { h := shaH0, total := 0, buf := buf, count := 0, state := .idle }
      { h := shaH0, total := 0, buf := buf', count := 0, state := .idle } :=
  ⟨rfl, rfl, fun _ => ⟨rfl, rfl, by simp [ShaContext.buffered]⟩⟩

/-- The bytes absorbed go behind the buffered ones, so the bytes above the count do not show. -/
theorem absorb (h : c.Same d) (hs : c.started = true) (m : List Byte) : (c.absorb m).Same (d.absorb m) := by
  obtain ⟨hh, htotal, hbuf⟩ := h.running hs
  refine ⟨rfl, ?_, fun _ => ⟨?_, ?_, ?_⟩⟩
  · rw [absorb_count, absorb_count, h.count]
  · rw [absorb_h, absorb_h, hh, hbuf]
  · rw [absorb_total, absorb_total, htotal]
  · rw [absorb_buffered, absorb_buffered, hbuf]

/-- A finished context shows its state and its count alone. -/
theorem finish (c d : ShaContext) (h h' : Vector Word 8) :
    ShaContext.Same { c with h := h, count := 0, state := .final } { d with h := h', count := 0, state := .final } :=
  ⟨rfl, rfl, nofun⟩

end ShaContext.Same

/-! ### States -/

/-- Two answers that are next states which differ only in what nothing can observe. -/
def SameAnswer (r r' : Result) : Prop := ∃ s t, r = .next s ∧ r' = .next t ∧ s.Same t

namespace State.Same

variable {s t : State}

theorem refl (s : State) : s.Same s :=
  ⟨rfl, rfl, rfl, ⟨rfl, fun _ _ _ => ⟨rfl, rfl⟩⟩, ⟨rfl, rfl, fun _ => ⟨rfl, rfl, rfl⟩⟩, rfl, fun _ => ⟨rfl, rfl⟩, rfl, rfl⟩

/-- A read sees the registers, the flags and of the contexts `nr`, the count and the state. -/
theorem readReg (h : s.Same t) (off : Nat) : readReg t off = readReg s off := by
  have hstatus : t.statusWord = s.statusWord := by
    simp only [State.statusWord, AesContext.keyed, h.status, h.tblReady, h.aes.nr, h.sha.state, h.sha.count, h.busy]
  simp only [Machine.readReg, State.ctrlWord, hstatus, h.regs]

theorem irq (h : s.Same t) : t.irq = s.irq := by
  simp only [State.irq, h.regs, h.status]

/-! Each update of the state, given the same values, keeps the relation. -/

theorem withInputs (h : s.Same t) (es : List PortEvent) : (s.withInputs es).Same (t.withInputs es) :=
  { h with inputs := rfl }

theorem respond (h : s.Same t) (r : BusResponse) : (s.respond r).Same (t.respond r) := { h with response := rfl }

theorem tablesReady (h : s.Same t) : s.tablesReady.Same t.tablesReady := { h with tblReady := rfl }

theorem setAes (h : s.Same t) {a b : AesContext} (hab : a.Same b) : (s.setAes a).Same (t.setAes b) := { h with aes := hab }

theorem setSha (h : s.Same t) {c d : ShaContext} (hcd : c.Same d) : (s.setSha c).Same (t.setSha d) := { h with sha := hcd }

theorem accept (h : s.Same t) (c : Word) : (s.accept c).Same (t.accept c) :=
  { h with
    status := by simp [h.status]
    busy := rfl
    pending := fun _ => ⟨rfl, by simp [h.regs]⟩ }

/-- After a completion the pending word and the snapshot are out of sight. -/
theorem finish (h : s.Same t) (e : ErrCode) : (s.finish e).Same (t.finish e) :=
  { h with
    status := by simp [h.status]
    busy := rfl
    pending := nofun }

theorem overrun (h : s.Same t) : s.overrun.Same t.overrun := { h with status := by simp [h.status] }

theorem clearStatus (h : s.Same t) (v : Word) : (s.clearStatus v).Same (t.clearStatus v) :=
  { h with status := by simp [h.status] }

theorem setCtrl (h : s.Same t) (v : Word) : (s.setCtrl v).Same (t.setCtrl v) := { h with regs := by simp [h.regs] }

theorem setKey (h : s.Same t) (k : Nat) (v : Word) : (s.setKey k v).Same (t.setKey k v) := { h with regs := by simp [h.regs] }

theorem setDin (h : s.Same t) (k : Nat) (v : Word) : (s.setDin k v).Same (t.setDin k v) := { h with regs := by simp [h.regs] }

theorem setMsg (h : s.Same t) (k : Nat) (v : Word) : (s.setMsg k v).Same (t.setMsg k v) := { h with regs := by simp [h.regs] }

theorem setDout (h : s.Same t) (b : Block) : (s.setDout b).Same (t.setDout b) := { h with regs := by simp [h.regs] }

theorem setDigest (h : s.Same t) (d : Vector Word 8) : (s.setDigest d).Same (t.setDigest d) :=
  { h with regs := by simp [h.regs] }

theorem setRdata (h : s.Same t) (w : Word) : (s.setRdata w).Same (t.setRdata w) := { h with regs := by simp [h.regs] }

theorem succeed (h : s.Same t) : SameAnswer (succeed s) (succeed t) := ⟨_, _, rfl, rfl, h.finish _⟩

theorem raise (h : s.Same t) (e : ErrCode) : SameAnswer (raise e s) (raise e t) := ⟨_, _, rfl, rfl, h.finish e⟩

/-! A host access, by its register. -/

theorem offer (h : s.Same t) (c : Word) : (s.offer c).Same (t.offer c) := by
  unfold State.offer
  rw [← h.busy]
  split
  · exact h.overrun
  · exact h.accept c

theorem writeReg (h : s.Same t) (off : Nat) (v : Word) : (writeReg s off v).Same (writeReg t off v) := by
  unfold Machine.writeReg
  split_ifs
  · exact h.offer v
  · exact h.clearStatus v
  · exact h.setCtrl v
  · exact h
  · exact h.setKey _ v
  · exact h.setDin _ v
  · exact h
  · exact h.setMsg _ v
  · exact h

theorem access (h : s.Same t) (a : BusAccess) : (s.access a).Same (t.access a) := by
  unfold State.access
  split
  · cases a.op with
    | read =>
      rw [h.readReg]
      exact h.respond _
    | write v => exact (h.writeReg _ v).respond _
  · exact h.respond _

/-! A command run with the same snapshot: the two runs take the same branch, and what they write there is the same. -/

section
variable (h : s.Same t) (hsnap : s.snap = t.snap)
include h

theorem execTblRead (table index : Nat) : SameAnswer (execTblRead table index s) (execTblRead table index t) := by
  unfold Machine.execTblRead
  split_ifs
  iterate 3 exact h.raise _
  exact (h.setRdata _).succeed

theorem execAesRkread (sched index : Nat) : SameAnswer (execAesRkread sched index s) (execAesRkread sched index t) := by
  unfold Machine.execAesRkread
  rw [← h.aes.nr]
  split
  · exact h.raise _
  next hkeyed =>
    split
    · exact h.raise _
    · split
      · exact h.raise _
      next hindex =>
        obtain ⟨herk, hdrk⟩ := h.aes.words hkeyed index (by omega)
        have hword : wordAt (if sched = 0 then s.aes.erk else s.aes.drk) index =
            wordAt (if sched = 0 then t.aes.erk else t.aes.drk) index := by
          split <;> assumption
        rw [hword]
        exact (h.setRdata _).succeed

theorem execShaStart : SameAnswer (execShaStart s) (execShaStart t) :=
  (h.setSha (ShaContext.Same.start _ _)).succeed

theorem execShaFinish : SameAnswer (execShaFinish s) (execShaFinish t) := by
  unfold Machine.execShaFinish
  rw [← h.sha.started]
  split
  · exact h.raise _
  next hs =>
    obtain ⟨hh, htotal, hbuf⟩ := h.sha.running (by simpa using hs)
    rw [hh, htotal, hbuf]
    exact ((h.setSha (ShaContext.Same.finish _ _ _ _)).setDigest _).succeed

include hsnap

theorem execAesKeysetup (keybytes bitlen : Nat) :
    SameAnswer (execAesKeysetup keybytes bitlen s) (execAesKeysetup keybytes bitlen t) := by
  by_cases hk : keyLengthOk keybytes bitlen = true
  · rw [execAesKeysetup_of_keyLengthOk hk, execAesKeysetup_of_keyLengthOk hk, ← hsnap]
    exact (h.setAes (s.aes.same_rekeyed t.aes s.snap (keyWords_of_keyLengthOk hk))).succeed
  · rw [Machine.execAesKeysetup, Machine.execAesKeysetup, if_neg hk, if_neg hk]
    exact (h.setAes (s.aes.same_unkeyed t.aes)).raise _

theorem execAesEncrypt : SameAnswer (execAesEncrypt s) (execAesEncrypt t) := by
  unfold Machine.execAesEncrypt
  rw [← h.aes.nr, ← hsnap]
  split
  · exact h.raise _
  next hkeyed =>
    rw [encryptBlock_congr fun i hi => (h.aes.words hkeyed i hi).1]
    exact (h.setDout _).succeed

theorem execAesDecrypt : SameAnswer (execAesDecrypt s) (execAesDecrypt t) := by
  unfold Machine.execAesDecrypt
  rw [← h.aes.nr, ← hsnap]
  split
  · exact h.raise _
  next hkeyed =>
    rw [decryptBlock_congr fun i hi => (h.aes.words hkeyed i hi).2]
    exact (h.setDout _).succeed

theorem execShaUpdate (len : Nat) : SameAnswer (execShaUpdate len s) (execShaUpdate len t) := by
  unfold Machine.execShaUpdate
  rw [← h.sha.started]
  split
  · exact h.raise _
  next hs =>
    have hs : s.sha.started = true := by simpa using hs
    obtain ⟨-, htotal, -⟩ := h.sha.running hs
    rw [← htotal, ← hsnap]
    split_ifs
    · exact h.raise _
    · exact h.raise _
    · exact h.succeed
    · exact (h.setSha (h.sha.absorb hs _)).succeed

theorem exec (i : Instr) : SameAnswer (exec i s) (exec i t) := by
  cases i with
  | nop => exact h.succeed
  | aesKeysetup keybytes bitlen => exact h.execAesKeysetup hsnap keybytes bitlen
  | aesEncrypt => exact h.execAesEncrypt hsnap
  | aesDecrypt => exact h.execAesDecrypt hsnap
  | aesRkread sched index => exact h.execAesRkread sched index
  | shaStart => exact h.execShaStart
  | shaUpdate len => exact h.execShaUpdate hsnap len
  | shaFinish => exact h.execShaFinish
  | tblRead table index => exact h.execTblRead table index

end

/-! One step. The complete step is taken only while busy, when the pending word and the snapshot are the same. -/

theorem complete (h : s.Same t) (hb : s.busy = true) : SameAnswer (complete s) (complete t) := by
  obtain ⟨hpending, hsnap⟩ := h.pending hb
  unfold Machine.complete
  rw [← hpending]
  split
  · exact h.exec hsnap _
  · exact h.raise _

theorem internalStep (h : s.Same t) : SameAnswer (internalStep s) (internalStep t) := by
  unfold Machine.internalStep
  rw [← h.tblReady, ← h.busy]
  split
  · exact ⟨_, _, rfl, rfl, h.tablesReady⟩
  · split
    next hb => exact h.complete hb
    · exact ⟨_, _, rfl, rfl, h⟩

theorem step (h : s.Same t) : SameAnswer (step s) (step t) := by
  unfold Machine.step
  rw [← h.inputs]
  split
  · exact h.internalStep
  · exact (h.withInputs _).internalStep
  · exact ⟨_, _, rfl, rfl, State.Same.refl _⟩
  · exact ⟨_, _, rfl, rfl, (h.withInputs _).access _⟩

end State.Same

/-- Settles O58: each step keeps the relation, and related states show the same. -/
theorem unobservableStateNeverShows : Obligations.UnobservableStateNeverShows := by
  intro s t s' h hs
  obtain ⟨u, t', hu, ht, hsame⟩ := h.step
  obtain rfl := Host.Outcome.next.inj (hs.symm.trans hu)
  exact ⟨t', ht, hsame, hsame.response.symm, hsame.irq, hsame.readReg⟩

end Sys2Proof.Machine
end

section
/-! PROOFS. The register window: what a read of each register gives and what a write of each changes (O18 to O21). -/

namespace Sys2Proof.Machine

/-! ### Which register an offset names -/

section
variable (s : State) {off : Nat} (v : Word)

theorem writeReg_key (h : 0x10 ≤ off ∧ off < 0x30) : writeReg s off v = s.setKey ((off - 0x10) / 4) v := by
  rcases writeReg_cases s off v with h' | h' | h' | h' | ⟨-, hw⟩ | h' | h' | h'
  case inr.inr.inr.inr.inl => exact hw
  all_goals omega

theorem writeReg_din (h : 0x30 ≤ off ∧ off < 0x40) : writeReg s off v = s.setDin ((off - 0x30) / 4) v := by
  rcases writeReg_cases s off v with h' | h' | h' | h' | h' | ⟨-, hw⟩ | h' | h'
  case inr.inr.inr.inr.inr.inl => exact hw
  all_goals omega

theorem writeReg_msg (h : 0x50 ≤ off ∧ off < 0x90) : writeReg s off v = s.setMsg ((off - 0x50) / 4) v := by
  rcases writeReg_cases s off v with h' | h' | h' | h' | h' | h' | ⟨-, hw⟩ | h'
  case inr.inr.inr.inr.inr.inr.inl => exact hw
  all_goals omega

/-- ID, the outputs and the reserved offsets ignore writes. -/
theorem writeReg_ignored (h : off = 0x0C ∨ (0x40 ≤ off ∧ off < 0x50) ∨ (0x90 ≤ off ∧ off < 0x100)) :
    writeReg s off v = s := by
  rcases writeReg_cases s off v with h' | h' | h' | h' | h' | h' | h' | ⟨-, -, -, -, hw⟩
  case inr.inr.inr.inr.inr.inr.inr => exact hw
  all_goals omega

end

/-! ### What a read of an offset looks at -/

@[simp] theorem readReg_respond (s : State) (r : BusResponse) (off : Nat) : readReg (s.respond r) off = readReg s off := rfl

section
variable (s : State) {off : Nat}

theorem readReg_key (h : 0x10 ≤ off ∧ off < 0x30) : readReg s off = wordAt s.regs.key ((off - 0x10) / 4) := by
  unfold readReg
  rw [if_neg (by omega), if_neg (by omega), if_neg (by omega), if_neg (by omega), if_pos h.2]

theorem readReg_din (h : 0x30 ≤ off ∧ off < 0x40) : readReg s off = wordAt s.regs.din ((off - 0x30) / 4) := by
  unfold readReg
  rw [if_neg (by omega), if_neg (by omega), if_neg (by omega), if_neg (by omega), if_neg (by omega), if_pos h.2]

theorem readReg_msg (h : 0x50 ≤ off ∧ off < 0x90) : readReg s off = wordAt s.regs.msg ((off - 0x50) / 4) := by
  unfold readReg
  rw [if_neg (by omega), if_neg (by omega), if_neg (by omega), if_neg (by omega), if_neg (by omega), if_neg (by omega),
    if_neg (by omega), if_pos h.2]

theorem readReg_reserved (h : 0xB4 ≤ off) : readReg s off = 0 := by
  unfold readReg
  iterate 10 rw [if_neg (by omega)]

end

/-- A read at an aligned offset sees the operand words only in the ranges of KEY, DIN and MSG: states that agree on them there,
and on STATUS, IE and the outputs, give the same read. -/
theorem readReg_congr {s t : State} {off : Nat} (ha : off % 4 = 0) (hstatus : t.statusWord = s.statusWord)
    (hie : t.regs.ie = s.regs.ie) (hdout : t.regs.dout = s.regs.dout) (hdigest : t.regs.digest = s.regs.digest)
    (hrdata : t.regs.rdata = s.regs.rdata)
    (hkey : 0x10 ≤ off → wordAt t.regs.key ((off - 0x10) / 4) = wordAt s.regs.key ((off - 0x10) / 4))
    (hdin : 0x30 ≤ off → wordAt t.regs.din ((off - 0x30) / 4) = wordAt s.regs.din ((off - 0x30) / 4))
    (hmsg : 0x50 ≤ off → wordAt t.regs.msg ((off - 0x50) / 4) = wordAt s.regs.msg ((off - 0x50) / 4)) :
    readReg t off = readReg s off := by
  unfold readReg
  rw [State.ctrlWord, State.ctrlWord, hstatus, hie, hdout, hdigest, hrdata]
  refine ite_congr rfl (fun _ => rfl) fun h0 => ?_
  refine ite_congr rfl (fun _ => rfl) fun h4 => ?_
  refine ite_congr rfl (fun _ => rfl) fun h8 => ?_
  refine ite_congr rfl (fun _ => rfl) fun hC => ?_
  refine ite_congr rfl (fun _ => hkey (by omega)) fun h30 => ?_
  refine ite_congr rfl (fun _ => hdin (by omega)) fun h40 => ?_
  refine ite_congr rfl (fun _ => rfl) fun h50 => ?_
  exact ite_congr rfl (fun _ => hmsg (by omega)) fun _ => rfl

/-! ### Reading after writing an operand register -/

section
variable (s : State) (v : Word) {off : Nat} (ha : off % 4 = 0)
include ha

theorem readReg_setKey_same (h : 0x10 ≤ off ∧ off < 0x30) : readReg (s.setKey ((off - 0x10) / 4) v) off = v := by
  rw [readReg_key _ h, State.setKey_regs, wordAt_setIfInBounds, if_pos ⟨rfl, by omega⟩]

theorem readReg_setDin_same (h : 0x30 ≤ off ∧ off < 0x40) : readReg (s.setDin ((off - 0x30) / 4) v) off = v := by
  rw [readReg_din _ h, State.setDin_regs, wordAt_setIfInBounds, if_pos ⟨rfl, by omega⟩]

theorem readReg_setMsg_same (h : 0x50 ≤ off ∧ off < 0x90) : readReg (s.setMsg ((off - 0x50) / 4) v) off = v := by
  rw [readReg_msg _ h, State.setMsg_regs, wordAt_setIfInBounds, if_pos ⟨rfl, by omega⟩]

variable {k : Nat}

theorem readReg_setKey_other (h : off ≠ 0x10 + 4 * k) : readReg (s.setKey k v) off = readReg s off :=
  readReg_congr ha rfl rfl rfl rfl rfl
    (fun _ => by rw [State.setKey_regs, wordAt_setIfInBounds, if_neg (by omega)]) (fun _ => rfl) fun _ => rfl

theorem readReg_setDin_other (h : off ≠ 0x30 + 4 * k) : readReg (s.setDin k v) off = readReg s off :=
  readReg_congr ha rfl rfl rfl rfl rfl
    (fun _ => rfl) (fun _ => by rw [State.setDin_regs, wordAt_setIfInBounds, if_neg (by omega)]) fun _ => rfl

theorem readReg_setMsg_other (h : off ≠ 0x50 + 4 * k) : readReg (s.setMsg k v) off = readReg s off :=
  readReg_congr ha rfl rfl rfl rfl rfl
    (fun _ => rfl) (fun _ => rfl) fun _ => by rw [State.setMsg_regs, wordAt_setIfInBounds, if_neg (by omega)]

end

/-- Settles O18: the offset names one word of KEY, DIN or MSG. -/
theorem operandRegistersHoldWhatIsWritten : Obligations.OperandRegistersHoldWhatIsWritten := by
  intro s v es off ha hoff hs
  refine ⟨_, step_hostWr hs ha (by omega), ?_⟩
  simp only [readReg_respond]
  have hrange : (0x10 ≤ off ∧ off < 0x30) ∨ (0x30 ≤ off ∧ off < 0x40) ∨ (0x50 ≤ off ∧ off < 0x90) := by omega
  rcases hrange with h | h | h
  · rw [writeReg_key _ _ h]
    exact ⟨readReg_setKey_same _ v ha h, fun o ho _ hne => readReg_setKey_other _ v ho (by omega), rfl, rfl, rfl, rfl, rfl, rfl⟩
  · rw [writeReg_din _ _ h]
    exact ⟨readReg_setDin_same _ v ha h, fun o ho _ hne => readReg_setDin_other _ v ho (by omega), rfl, rfl, rfl, rfl, rfl, rfl⟩
  · rw [writeReg_msg _ _ h]
    exact ⟨readReg_setMsg_same _ v ha h, fun o ho _ hne => readReg_setMsg_other _ v ho (by omega), rfl, rfl, rfl, rfl, rfl, rfl⟩

/-! ### The bits of STATUS and CTRL -/

/-- STATUS above its three lowest bits: a reserved bit, then the fields that no host write changes. -/
def State.statusFields (s : State) : BitVec 29 :=
  0#10 ++ s.sha.count ++ s.aes.nr.code ++ s.sha.state.code ++ BitVec.ofBool s.aes.keyed ++ BitVec.ofBool s.tblReady
    ++ s.status.err.code ++ 0#1

section
variable (s : State)

theorem statusWord_eq :
    s.statusWord =
      s.statusFields ++ BitVec.ofBool s.status.overrun ++ BitVec.ofBool s.status.done ++ BitVec.ofBool s.busy := rfl

theorem statusFields_eq :
    s.statusFields =
      0#10 ++ s.sha.count ++ s.aes.nr.code ++ s.sha.state.code ++ BitVec.ofBool s.aes.keyed ++ BitVec.ofBool s.tblReady
        ++ s.status.err.code ++ 0#1 := rfl

theorem ctrlWord_eq : s.ctrlWord = 0#31 ++ BitVec.ofBool s.regs.ie := rfl

theorem statusWord_busy : s.statusWord.getLsbD 0 = s.busy := by
  simp only [statusWord_eq, BitVec.getLsbD_append]
  simp

theorem statusWord_done : s.statusWord.getLsbD 1 = s.status.done := by
  simp only [statusWord_eq, BitVec.getLsbD_append]
  simp

theorem statusWord_overrun : s.statusWord.getLsbD 2 = s.status.overrun := by
  simp only [statusWord_eq, BitVec.getLsbD_append]
  simp

theorem statusWord_getLsbD_fields (k : Nat) : s.statusWord.getLsbD (k + 3) = s.statusFields.getLsbD k := by
  simp only [statusWord_eq, BitVec.getLsbD_append]
  rw [if_neg (by omega), if_neg (by omega), if_neg (by omega)]
  rfl

theorem statusWord_extract_fields (k l : Nat) : s.statusWord.extractLsb' (k + 3) l = s.statusFields.extractLsb' k l := by
  apply BitVec.eq_of_getLsbD_eq
  intro i hi
  rw [BitVec.getLsbD_extractLsb', BitVec.getLsbD_extractLsb', Nat.add_right_comm, statusWord_getLsbD_fields]

/-- Bit 3 and the bits from 22 on read 0. -/
theorem statusWord_reserved {k : Nat} (h : k = 3 ∨ 22 ≤ k) : s.statusWord.getLsbD k = false := by
  obtain ⟨j, rfl⟩ := Nat.exists_eq_add_of_le' (show 3 ≤ k by omega)
  simp only [statusWord_getLsbD_fields, statusFields_eq, BitVec.getLsbD_append, BitVec.getLsbD_zero]
  rcases h with h | h
  · rw [if_pos (by omega)]
  · iterate 7 rw [if_neg (by omega)]

theorem statusWord_tblReady : s.statusWord.getLsbD 8 = s.tblReady := by
  simp only [statusWord_getLsbD_fields s 5, statusFields_eq, BitVec.getLsbD_append]
  simp

theorem statusWord_keyed : s.statusWord.getLsbD 9 = s.aes.keyed := by
  simp only [statusWord_getLsbD_fields s 6, statusFields_eq, BitVec.getLsbD_append]
  simp

theorem statusWord_err : s.statusWord.extractLsb' 4 4 = s.status.err.code := by
  rw [statusWord_extract_fields s 1 4, statusFields_eq, BitVec.extractLsb'_append_eq_of_le (by decide),
    BitVec.extractLsb'_append_eq_of_add_le (by decide), BitVec.extractLsb'_eq_self]

theorem statusWord_shaState : s.statusWord.extractLsb' 10 2 = s.sha.state.code := by
  rw [statusWord_extract_fields s 7 2, statusFields_eq]
  iterate 4 rw [BitVec.extractLsb'_append_eq_of_le (by decide)]
  rw [BitVec.extractLsb'_append_eq_of_add_le (by decide), BitVec.extractLsb'_eq_self]

theorem statusWord_nr : s.statusWord.extractLsb' 12 4 = s.aes.nr.code := by
  rw [statusWord_extract_fields s 9 4, statusFields_eq]
  iterate 5 rw [BitVec.extractLsb'_append_eq_of_le (by decide)]
  rw [BitVec.extractLsb'_append_eq_of_add_le (by decide), BitVec.extractLsb'_eq_self]

theorem statusWord_shaCount : s.statusWord.extractLsb' 16 6 = s.sha.count := by
  rw [statusWord_extract_fields s 13 6, statusFields_eq]
  iterate 6 rw [BitVec.extractLsb'_append_eq_of_le (by decide)]
  rw [BitVec.extractLsb'_append_eq_of_add_le (by decide), BitVec.extractLsb'_eq_self]

theorem ctrlWord_ie : s.ctrlWord.getLsbD 0 = s.regs.ie := by
  simp only [ctrlWord_eq, BitVec.getLsbD_append]
  simp

theorem ctrlWord_reserved {k : Nat} (h : 1 ≤ k) : s.ctrlWord.getLsbD k = false := by
  rw [ctrlWord_eq, BitVec.getLsbD_append, if_neg (by omega), BitVec.getLsbD_zero]

end

theorem keyed_iff (a : AesContext) : a.keyed = true ↔ a.nr ≠ .unkeyed := by
  simp [AesContext.keyed]

/-- The four bits of STATUS.NR hold every round count. -/
theorem toNat_code (n : Rounds) : n.code.toNat = n.num := by
  cases n <;> rfl

/-! ### The obligations about single registers -/

/-- Settles O19, register by register. -/
theorem readOnlyAndReservedBitsIgnoreWrites : Obligations.ReadOnlyAndReservedBitsIgnoreWrites := by
  refine ⟨fun s off _ h _ => readReg_reserved s h, ?_,
    fun s => ⟨statusWord_reserved s (.inl rfl), fun k hk => statusWord_reserved s (.inr hk)⟩,
    fun s => ⟨ctrlWord_ie s, fun k hk => ctrlWord_reserved s hk⟩, ?_, rfl, fun s => ⟨rfl, rfl⟩⟩
  · intro s v es off ha hoff hs
    rw [step_hostWr hs ha (by omega), writeReg_ignored _ v hoff]
    rfl
  · intro s v es hs
    rw [step_hostWr hs (by decide) (by decide)]
    rfl

/-- Of a word written to STATUS only bits 1 and 2 count. -/
theorem getLsbD_w1cMask (k : Nat) : (0x00000006 : Word).getLsbD k = decide (k = 1 ∨ k = 2) := by
  match k with
  | 0 | 1 | 2 => decide
  | k + 3 =>
    have hbit : (6 : Nat).testBit (k + 3) = false :=
      Nat.testBit_lt_two_pow (calc
        6 < 2 ^ 3 := by decide
        _ ≤ 2 ^ (k + 3) := Nat.pow_le_pow_right (by decide) (by omega))
    simp [BitVec.getLsbD_ofNat, hbit]

/-- A STATUS write changes the two bits in the word that a read gives. -/
theorem statusWord_clearStatus (s : State) (v : Word) :
    (s.clearStatus v).statusWord = s.statusWord &&& ~~~(v &&& 0x00000006) := by
  apply BitVec.eq_of_getLsbD_eq
  intro i hi
  rw [BitVec.getLsbD_and, BitVec.getLsbD_not, BitVec.getLsbD_and, getLsbD_w1cMask]
  match i with
  | 0 =>
    rw [statusWord_busy, statusWord_busy]
    simp
  | 1 =>
    rw [statusWord_done, statusWord_done]
    simp
  | 2 =>
    rw [statusWord_overrun, statusWord_overrun]
    simp
  | k + 3 =>
    have hfields : (s.clearStatus v).statusFields = s.statusFields := rfl
    rw [statusWord_getLsbD_fields, statusWord_getLsbD_fields, hfields]
    simp [hi]

/-- Settles O20. -/
theorem statusWriteClearsDoneAndOverrun : Obligations.StatusWriteClearsDoneAndOverrun := by
  intro s v es hs
  exact ⟨_, step_hostWr hs (by decide) (by decide), statusWord_clearStatus s v, rfl⟩

/-- Settles O21, field by field. -/
theorem statusReadGivesItsFields : Obligations.StatusReadGivesItsFields := by
  refine ⟨fun s es hs => ⟨s.statusWord, step_hostRd hs (by decide) (by decide), statusWord_busy s, statusWord_done s,
    statusWord_overrun s, statusWord_err s, statusWord_tblReady s, ?_, statusWord_shaState s, ?_, statusWord_shaCount s⟩,
    rfl, rfl, rfl⟩
  · rw [statusWord_keyed, keyed_iff]
  · rw [statusWord_nr, toNat_code]

end Sys2Proof.Machine
end

section
/-! PROOFS. Which command may write which output and which context (O29). -/

namespace Sys2Proof.Machine

/-- Settles O29: what each command writes, by its cases. -/
theorem onlyNamedCommandsWriteOutputsAndContexts : Obligations.OnlyNamedCommandsWriteOutputsAndContexts := by
  intro i s t h
  cases i with
  | nop =>
    obtain rfl := Host.Outcome.next.inj h
    exact ⟨fun _ _ => rfl, fun _ => rfl, fun _ _ => rfl, fun _ => rfl, fun _ _ _ => rfl⟩
  | aesKeysetup keybytes bitlen =>
    rcases execAesKeysetup_cases h with ⟨-, rfl⟩ | ⟨-, rfl⟩ <;>
      exact ⟨fun _ _ => rfl, fun _ => rfl, fun _ _ => rfl, fun hi => (hi _ _ rfl).elim, fun _ _ _ => rfl⟩
  | aesEncrypt =>
    rcases execAesEncrypt_cases h with ⟨-, rfl⟩ | ⟨-, rfl⟩ <;>
      exact ⟨fun hi _ => (hi rfl).elim, fun _ => rfl, fun _ _ => rfl, fun _ => rfl, fun _ _ _ => rfl⟩
  | aesDecrypt =>
    rcases execAesDecrypt_cases h with ⟨-, rfl⟩ | ⟨-, rfl⟩ <;>
      exact ⟨fun _ hi => (hi rfl).elim, fun _ => rfl, fun _ _ => rfl, fun _ => rfl, fun _ _ _ => rfl⟩
  | aesRkread sched index =>
    rcases execAesRkread_cases h with ⟨-, rfl⟩ | ⟨-, -, rfl⟩ | ⟨-, -, -, rfl⟩ <;>
      exact ⟨fun _ _ => rfl, fun _ => rfl, fun _ hi => (hi _ _ rfl).elim, fun _ => rfl, fun _ _ _ => rfl⟩
  | shaStart =>
    obtain rfl := Host.Outcome.next.inj h
    exact ⟨fun _ _ => rfl, fun _ => rfl, fun _ _ => rfl, fun _ => rfl, fun hi _ _ => (hi rfl).elim⟩
  | shaUpdate len =>
    rcases execShaUpdate_cases h with ⟨-, rfl⟩ | ⟨-, -, rfl⟩ | ⟨-, -, -, rfl⟩ | ⟨-, -, -, rfl⟩ | ⟨-, -, -, -, rfl⟩ <;>
      exact ⟨fun _ _ => rfl, fun _ => rfl, fun _ _ => rfl, fun _ => rfl, fun _ hi _ => (hi _ rfl).elim⟩
  | shaFinish =>
    rcases execShaFinish_cases h with ⟨-, rfl⟩ | ⟨-, rfl⟩ <;>
      exact ⟨fun _ _ => rfl, fun hi => (hi rfl).elim, fun _ _ => rfl, fun _ => rfl, fun _ _ hi => (hi rfl).elim⟩
  | tblRead table index =>
    rcases execTblRead_cases h with ⟨-, rfl⟩ | ⟨-, rfl⟩ <;>
      exact ⟨fun _ _ => rfl, fun _ => rfl, fun hi => (hi _ _ rfl).elim, fun _ => rfl, fun _ _ _ => rfl⟩

end Sys2Proof.Machine
end

section
/-! PROOFS. Host accesses at the slave port: which reach it, which it refuses, what a read answers, what writing a register twice
does, and what no access changes while a command is pending (O13, O16, O17, O22). -/

namespace Sys2Proof.Machine

/-! ### The window -/

theorem base_mod_window : Config.base % 0x100 = 0 := Nat.mul_mod_right _ _

/-- Settles O22. -/
theorem windowIsDecodedFromBase : Obligations.WindowIsDecodedFromBase := by
  refine ⟨base_mod_window, fun op off w hoff => ?_, fun op addr w hout => ?_⟩
  · have hin : Config.base ≤ Config.base + off ∧ Config.base + off < Config.base + Config.windowBytes :=
      ⟨Nat.le_add_right _ _, Nat.add_lt_add_left hoff _⟩
    rw [portEvent?, if_pos hin, Nat.add_sub_cancel_left]
  · refine if_neg ?_
    rintro ⟨hlow, hhigh⟩
    exact hout.elim hlow.not_gt hhigh.not_ge

/-! ### Refused accesses -/

/-- The port serves an access by its width and its address: `BASE` is a multiple of 4. -/
theorem served_iff (a : BusAccess) : a.served = true ↔ a.width = 4 ∧ (Config.base + a.off.toNat) % 4 = 0 := by
  have hbase := base_mod_window
  have haddr : (Config.base + a.off.toNat) % 4 = 0 ↔ a.off.toNat % 4 = 0 := by omega
  simp [BusAccess.served, haddr]

theorem access_of_not_served (s : State) {a : BusAccess} (h : a.served = false) : s.access a = s.respond .busError := by
  simp [State.access, h]

/-- Settles O16: the refused access is not served. -/
theorem refusedAccessChangesNothing : Obligations.RefusedAccessChangesNothing := by
  intro s a es hs hrefused
  have hserved : a.served = false := by
    rw [← Bool.not_eq_true, served_iff]
    tauto
  rw [step_access hs, access_of_not_served _ hserved]
  rfl

/-! ### Reads -/

/-- What the port answers to a read. -/
def readResponse (s : State) (off : BitVec 8) (width : Nat) : BusResponse :=
  if width = 4 ∧ off.toNat % 4 = 0 then .data (readReg s off.toNat) else .busError

theorem step_read {s : State} {off : BitVec 8} {w : Nat} {es : List PortEvent}
    (h : s.inputs = .access { op := .read, off := off, width := w } :: es) :
    step s = .next ((s.withInputs es).respond (readResponse s off w)) := by
  have hread : readResponse s off w = readResponse (s.withInputs es) off w := rfl
  rw [step_access h, hread, readResponse]
  split
  next hserved => simp [State.access, BusAccess.served, hserved]
  next hrefused => rw [access_of_not_served _ (by simpa [BusAccess.served] using hrefused)]

theorem wordAt_eq_getElem {n i : Nat} (v : Vector Word n) (h : i < n) : wordAt v i = v[i] := by
  simp [wordAt, h]

section
variable (s : State) {off : Nat}

theorem readReg_dout (h : 0x40 ≤ off ∧ off < 0x50) : readReg s off = wordAt s.regs.dout ((off - 0x40) / 4) := by
  unfold readReg
  iterate 6 rw [if_neg (by omega)]
  rw [if_pos h.2]

theorem readReg_digest (h : 0x90 ≤ off ∧ off < 0xB0) : readReg s off = wordAt s.regs.digest ((off - 0x90) / 4) := by
  unfold readReg
  iterate 8 rw [if_neg (by omega)]
  rw [if_pos h.2]

end

/-- The word at distance `4 * k` from the first one of an array of registers. -/
theorem wordAt_of_offset {n k : Nat} (v : Vector Word n) (first : Nat) (h : k < n) :
    wordAt v ((first + 4 * k - first) / 4) = v[k] := by
  rw [Nat.add_sub_cancel_left, Nat.mul_div_cancel_left _ (by decide), wordAt_eq_getElem v h]

/-! ### Writing a register twice -/

section
variable (s : State) (off : Nat) (v : Word)

/-- A register write neither looks at the two fields of the port nor changes them. -/
theorem writeReg_port (r : BusResponse) (es : List PortEvent) :
    writeReg ((s.respond r).withInputs es) off v = ((writeReg s off v).respond r).withInputs es := by
  have hoffer : ((s.respond r).withInputs es).offer v = ((s.offer v).respond r).withInputs es := by
    cases hb : s.busy <;> simp [State.offer, hb] <;> rfl
  unfold writeReg
  rw [hoffer]
  split_ifs <;> rfl

theorem writeReg_inputs : (writeReg s off v).inputs = s.inputs := by
  rcases writeReg_cases s off v with ⟨-, -, hw⟩ | ⟨-, -, hw⟩ | ⟨-, hw⟩ | ⟨-, hw⟩ | ⟨-, hw⟩ | ⟨-, hw⟩ | ⟨-, hw⟩ |
    ⟨-, -, -, -, hw⟩ <;> rw [hw] <;> rfl

theorem clearStatus_clearStatus : (s.clearStatus v).clearStatus v = s.clearStatus v := by
  simp [State.clearStatus]

/-- Every register but CMD holds after a write what a second write of the same word leaves. -/
theorem writeReg_writeReg (h : off ≠ 0x00) : writeReg (writeReg s off v) off v = writeReg s off v := by
  unfold writeReg
  rw [if_neg h, if_neg h]
  split_ifs
  · exact clearStatus_clearStatus s v
  · rfl
  · rfl
  · simp [State.setKey]
  · simp [State.setDin]
  · rfl
  · simp [State.setMsg]
  · rfl

end

theorem writeReg_cmd (s : State) (c : Word) : writeReg s 0x00 c = s.offer c := rfl

theorem offer_of_busy {s : State} (h : s.busy = true) (c : Word) : s.offer c = s.overrun := if_pos h

theorem offer_of_not_busy {s : State} (h : s.busy = false) (c : Word) : s.offer c = s.accept c := by
  simp [State.offer, h]

/-- Settles O17: a read answers the same whatever the port's fields hold, each register but CMD absorbs a second write, and the
second write to CMD finds the first word pending. -/
theorem readsHaveNoSideEffectAndWritesRepeat : Obligations.ReadsHaveNoSideEffectAndWritesRepeat := by
  refine ⟨?_, ?_, ?_, ?_⟩
  · intro s off w es hs
    refine ⟨readResponse s off w, step_read hs, fun hw ha => if_pos ⟨hw, ha⟩, fun es' hes => ?_⟩
    exact step_read (s := (s.withInputs es).respond (readResponse s off w)) hes
  · intro s
    refine ⟨fun k hk => ?_, fun k hk => ?_, fun k hk => ?_, fun k hk => ?_, fun k hk => ?_, rfl⟩
    · rw [readReg_key s (by omega), wordAt_of_offset _ _ hk]
    · rw [readReg_din s (by omega), wordAt_of_offset _ _ hk]
    · rw [readReg_dout s (by omega), wordAt_of_offset _ _ hk]
    · rw [readReg_msg s (by omega), wordAt_of_offset _ _ hk]
    · rw [readReg_digest s (by omega), wordAt_of_offset _ _ hk]
  · intro s off v es ha hpos hw hs
    refine ⟨_, step_hostWr hs ha hw, ?_⟩
    rw [step_hostWr (writeReg_inputs _ off v) ha hw, writeReg_port, writeReg_writeReg _ off v hpos.ne']
    rfl
  · intro s c es hb hs
    have hfirst : step s = .next (((s.withInputs (hostWr 0x00 c :: es)).accept c).respond .ack) := by
      rw [step_hostWr hs rfl (by decide), writeReg_cmd, offer_of_not_busy ((s.withInputs_busy _).trans hb)]
    refine ⟨_, _, hfirst, rfl, step_hostWr (off := 0x00) (v := c) (es := es) rfl rfl (by decide), ?_⟩
    rw [writeReg_cmd, offer_of_busy rfl]
    rfl

/-! ### The pending command -/

/-- While busy a register write leaves the sequencer and the contexts: a CMD write is dropped, and no other register holds any
part of them. -/
theorem writeReg_of_busy {s : State} (h : s.busy = true) (off : Nat) (v : Word) :
    (writeReg s off v).busy = true ∧ (writeReg s off v).pending = s.pending ∧ (writeReg s off v).snap = s.snap ∧
      (writeReg s off v).aes = s.aes ∧ (writeReg s off v).sha = s.sha := by
  rcases writeReg_cases s off v with ⟨-, -, hw⟩ | ⟨-, hidle, -⟩ | ⟨-, hw⟩ | ⟨-, hw⟩ | ⟨-, hw⟩ | ⟨-, hw⟩ | ⟨-, hw⟩ |
    ⟨-, -, -, -, hw⟩
  case inr.inl =>
    rw [h] at hidle
    contradiction
  all_goals
    rw [hw]
    exact ⟨h, rfl, rfl, rfl, rfl⟩

/-- Settles O13: a refused access and a read only answer, and a write is `writeReg_of_busy`. -/
theorem hostAccessLeavesPendingCommand : Obligations.HostAccessLeavesPendingCommand := by
  intro s a es hb hs
  refine ⟨_, step_access hs, ?_⟩
  rcases access_cases (s.withInputs es) a with ⟨-, ha⟩ | ⟨-, -, ha⟩ | ⟨v, -, -, ha⟩ <;> rw [ha]
  · exact ⟨hb, rfl, rfl, rfl, rfl⟩
  · exact ⟨hb, rfl, rfl, rfl, rfl⟩
  · exact writeReg_of_busy (s := s.withInputs es) hb a.off.toNat v

end Sys2Proof.Machine
end

section
/-! PROOFS. Commands and the operand registers: every command commutes with a change of KEY, DIN and MSG (O14). -/

namespace Sys2Proof.Machine

/-- Other words in the operand registers. -/
def State.withOperands (s : State) (k : Vector Word 8) (d : Block) (m : Vector Word 16) : State :=
  { s with regs := { s.regs with key := k, din := d, msg := m } }

/-- A change of the next state that an answer gives. -/
def mapNext (f : State → State) : Result → Result
  | .next s => .next (f s)
  | .fault r => .fault r
  | .refused r => .refused r

/-- Each command branches on the contexts, the snapshot and its own fields, and what it writes in a branch is made from those: the
change of the operand registers passes to the ends of the branches, where it is the same change of the next state. -/
theorem exec_withOperands (i : Instr) (s : State) (k : Vector Word 8) (d : Block) (m : Vector Word 16) :
    exec i (s.withOperands k d m) = mapNext (fun t => t.withOperands k d m) (exec i s) := by
  cases i with
  | nop => rfl
  | aesKeysetup keybytes bitlen =>
    simp only [exec, execAesKeysetup, apply_ite (mapNext _)]
    rfl
  | aesEncrypt =>
    simp only [exec, execAesEncrypt, apply_ite (mapNext _)]
    rfl
  | aesDecrypt =>
    simp only [exec, execAesDecrypt, apply_ite (mapNext _)]
    rfl
  | aesRkread sched index =>
    simp only [exec, execAesRkread, apply_ite (mapNext _)]
    rfl
  | shaStart => rfl
  | shaUpdate len =>
    simp only [exec, execShaUpdate, apply_ite (mapNext _)]
    rfl
  | shaFinish =>
    simp only [exec, execShaFinish, apply_ite (mapNext _)]
    rfl
  | tblRead table index =>
    simp only [exec, execTblRead, apply_ite (mapNext _)]
    rfl

/-- Settles O14: the answer is the same up to the change of the operand registers. -/
theorem commandsComputeFromTheSnapshot : Obligations.CommandsComputeFromTheSnapshot := by
  intro i s t k d m h
  calc exec i (s.withOperands k d m)
    _ = mapNext (fun u => u.withOperands k d m) (exec i s) := exec_withOperands i s k d m
    _ = .next (t.withOperands k d m) := by rw [h]; rfl

end Sys2Proof.Machine
end

section
/-! PROOFS. The command word: the decoder and the encoder undo each other, and the decoder refuses exactly the illegal words,
which complete with IllegalCommand (O1, O2, O3, O6). -/

namespace Sys2Proof

/-! ### The fields of the command word -/

theorem fieldOp_eq (c : Word) : fieldOp c = c.toNat % 2 ^ 8 := by
  simp [fieldOp]

theorem fieldA_eq (c : Word) : fieldA c = c.toNat / 2 ^ 8 % 2 ^ 8 := by
  simp [fieldA, Nat.shiftRight_eq_div_pow]

theorem fieldB_eq (c : Word) : fieldB c = c.toNat / 2 ^ 16 := by
  have hc := c.isLt
  simp only [fieldB, BitVec.extractLsb'_toNat, Nat.shiftRight_eq_div_pow]
  omega

/-- Each field of a command word stands at its place, cut to its width. -/
theorem toNat_commandWord (op fa fb : Nat) :
    (commandWord op fa fb).toNat = fb % 65536 * 65536 + fa % 256 * 256 + op % 256 := by
  have ha : fa % 2 ^ 8 < 2 ^ 8 := Nat.mod_lt _ (by decide)
  have hop : op % 2 ^ 8 < 2 ^ 8 := Nat.mod_lt _ (by decide)
  rw [commandWord, BitVec.toNat_append, BitVec.toNat_append, BitVec.toNat_ofNat, BitVec.toNat_ofNat, BitVec.toNat_ofNat,
    ← Nat.shiftLeft_add_eq_or_of_lt ha, ← Nat.shiftLeft_add_eq_or_of_lt hop, Nat.shiftLeft_eq, Nat.shiftLeft_eq]
  omega

@[simp] theorem fieldOp_commandWord (op fa fb : Nat) : fieldOp (commandWord op fa fb) = op % 256 := by
  rw [fieldOp_eq, toNat_commandWord]
  omega

@[simp] theorem fieldA_commandWord (op fa fb : Nat) : fieldA (commandWord op fa fb) = fa % 256 := by
  rw [fieldA_eq, toNat_commandWord]
  omega

@[simp] theorem fieldB_commandWord (op fa fb : Nat) : fieldB (commandWord op fa fb) = fb % 65536 := by
  rw [fieldB_eq, toNat_commandWord]
  omega

/-- The three fields are the whole word. -/
theorem commandWord_fields (c : Word) : commandWord (fieldOp c) (fieldA c) (fieldB c) = c := by
  apply BitVec.eq_of_toNat_eq
  have hc := c.isLt
  rw [toNat_commandWord, fieldOp_eq, fieldA_eq, fieldB_eq]
  omega

theorem mod_of_fitsFA {n : Nat} (h : fitsFA n = true) : n % 256 = n := Nat.mod_eq_of_lt (of_decide_eq_true h)

theorem mod_of_fitsFB {n : Nat} (h : fitsFB n = true) : n % 65536 = n := Nat.mod_eq_of_lt (of_decide_eq_true h)

theorem fitsFA_fieldA (c : Word) : fitsFA (fieldA c) = true := decide_eq_true (BitVec.isLt _)

theorem fitsFB_fieldB (c : Word) : fitsFB (fieldB c) = true := decide_eq_true (BitVec.isLt _)

/-! ### Decoding what was encoded -/

/-- The encoder cuts neither of two operands that fit. -/
theorem mod_of_fits {fa fb : Nat} (h : (fitsFA fa && fitsFB fb) = true) : fa % 256 = fa ∧ fb % 65536 = fb := by
  rw [Bool.and_eq_true] at h
  exact ⟨mod_of_fitsFA h.1, mod_of_fitsFB h.2⟩

/-- Settles O1: the decoder finds the fields that the encoder wrote, and none of them was cut. -/
theorem encodedCommandDecodesBack : Obligations.EncodedCommandDecodesBack := by
  intro i hi
  cases i with
  | nop => rfl
  | aesKeysetup keybytes bitlen =>
    obtain ⟨ha, hb⟩ := mod_of_fits hi
    simp [encode, decode, ha, hb]
  | aesEncrypt => rfl
  | aesDecrypt => rfl
  | aesRkread sched index =>
    obtain ⟨ha, hb⟩ := mod_of_fits hi
    simp [encode, decode, ha, hb]
  | shaStart => rfl
  | shaUpdate len => simp [encode, decode, decodeUpdate, mod_of_fitsFA hi]
  | shaFinish => rfl
  | tblRead table index =>
    obtain ⟨ha, hb⟩ := mod_of_fits hi
    simp [encode, decode, ha, hb]

/-! ### Encoding what was decoded -/

/-- A word with the opcode of a command without operands is that command's encoding when the decoder takes it. -/
theorem decodePlain_encodesBack {c : Word} {op : Nat} {i j : Instr} (hop : fieldOp c = op) (hwf : wellFormed i = true)
    (henc : encode i = commandWord op 0 0) (h : decodePlain (fieldA c) (fieldB c) i = .ok j) :
    wellFormed j = true ∧ encode j = c := by
  unfold decodePlain at h
  split at h
  next hz =>
    obtain rfl := Except.ok.inj h
    refine ⟨hwf, ?_⟩
    calc encode i
      _ = commandWord (fieldOp c) (fieldA c) (fieldB c) := by rw [henc, hop, hz.1, hz.2]
      _ = c := commandWord_fields c
  next => cases h

theorem decodeUpdate_encodesBack {c : Word} {j : Instr} (hop : fieldOp c = 0x21)
    (h : decodeUpdate (fieldA c) (fieldB c) = .ok j) : wellFormed j = true ∧ encode j = c := by
  unfold decodeUpdate at h
  split at h
  next hz =>
    obtain rfl := Except.ok.inj h
    refine ⟨fitsFA_fieldA c, ?_⟩
    calc encode (.shaUpdate (fieldA c))
      _ = commandWord (fieldOp c) (fieldA c) (fieldB c) := by rw [encode, hop, hz]
      _ = c := commandWord_fields c
  next => cases h

/-- A command that takes both fields is encoded by them. -/
theorem operands_encodeBack {c : Word} {op : Nat} {i j : Instr} (hop : fieldOp c = op)
    (hwf : wellFormed i = (fitsFA (fieldA c) && fitsFB (fieldB c)))
    (henc : encode i = commandWord op (fieldA c) (fieldB c)) (h : (.ok i : Except DecodeError Instr) = .ok j) :
    wellFormed j = true ∧ encode j = c := by
  obtain rfl := Except.ok.inj h
  rw [hwf, henc, ← hop, fitsFA_fieldA, fitsFB_fieldB]
  exact ⟨rfl, commandWord_fields c⟩

/-- Settles O2: by the opcode, and the three ways a command takes the fields. -/
theorem decodedWordEncodesBack : Obligations.DecodedWordEncodesBack := by
  intro c i h
  unfold decode at h
  dsimp only at h
  split at h
  next hop => exact decodePlain_encodesBack hop rfl rfl h
  next hop => exact operands_encodeBack hop rfl rfl h
  next hop => exact decodePlain_encodesBack hop rfl rfl h
  next hop => exact decodePlain_encodesBack hop rfl rfl h
  next hop => exact operands_encodeBack hop rfl rfl h
  next hop => exact decodePlain_encodesBack hop rfl rfl h
  next hop => exact decodeUpdate_encodesBack hop h
  next hop => exact decodePlain_encodesBack hop rfl rfl h
  next hop => exact operands_encodeBack hop rfl rfl h
  next => cases h

/-! ### The words the decoder refuses -/

theorem decodePlain_isError (fa fb : Nat) (i : Instr) :
    (∃ e, decodePlain fa fb i = .error e) ↔ (fa ≠ 0 ∨ fb ≠ 0) := by
  unfold decodePlain
  split
  next h => simp [h]
  next h => simpa [or_iff_not_imp_left] using h

theorem decodeUpdate_isError (fa fb : Nat) : (∃ e, decodeUpdate fa fb = .error e) ↔ fb ≠ 0 := by
  unfold decodeUpdate
  split
  next h => simp [h]
  next h => simpa using h

/-- The illegal words, by the decoder's own fields. -/
theorem illegalWord_iff_fields (c : Word) :
    Machine.illegalWord c ↔
      fieldOp c ∉ [0x00, 0x10, 0x11, 0x12, 0x13, 0x20, 0x21, 0x22, 0x30] ∨
        (fieldOp c ∈ [0x00, 0x11, 0x12, 0x20, 0x22] ∧ (fieldA c ≠ 0 ∨ fieldB c ≠ 0)) ∨ (fieldOp c = 0x21 ∧ fieldB c ≠ 0) := by
  rw [fieldOp_eq, fieldA_eq, fieldB_eq]

/-- Settles O3: by the opcode. -/
theorem decoderRefusesExactlyIllegalWords : Obligations.DecoderRefusesExactlyIllegalWords := by
  intro c
  rw [illegalWord_iff_fields]
  unfold decode
  dsimp only
  split
  case h_10 =>
    refine iff_of_true ⟨_, rfl⟩ (.inl ?_)
    simp only [List.mem_cons, List.not_mem_nil]
    tauto
  all_goals
    rename_i hop
    simp [hop, decodePlain_isError, decodeUpdate_isError]

end Sys2Proof

namespace Sys2Proof.Machine

/-- A CMD write with no command pending is an acceptance (43_control.md R241). -/
theorem step_accept {s : State} {c : Word} {es : List PortEvent} (hb : s.busy = false)
    (hs : s.inputs = hostWr 0x00 c :: es) : step s = .next (((s.withInputs es).accept c).respond .ack) := by
  rw [step_hostWr hs rfl (by decide), writeReg_cmd, offer_of_not_busy ((s.withInputs_busy es).trans hb)]

theorem complete_of_illegalWord {s : State} (h : illegalWord s.pending) : complete s = .next (s.finish .illegalCommand) := by
  obtain ⟨e, he⟩ := (decoderRefusesExactlyIllegalWords s.pending).mpr h
  rw [complete, he, execIllegal_eq]

theorem complete_of_decode {s : State} {i : Instr} (h : decode s.pending = .ok i) : complete s = exec i s := by
  rw [complete, h]

/-- Settles O6: acceptance takes the word undecoded, and the complete step then meets the decoder's refusal. -/
theorem illegalWordCompletesWithCodeFive : Obligations.IllegalWordCompletesWithCodeFive := by
  intro s c es hc hb hr hs
  refine ⟨_, step_accept hb hs, rfl, rfl, ?_, rfl⟩
  rw [step_idle rfl, internalStep_complete (by exact hr) (by rfl), complete_of_illegalWord (by exact hc)]
  rfl

end Sys2Proof.Machine
end

section
/-! SUPPORT. A running SHA-256 context that holds a message, and SHA_UPDATE on it (42_sha256.md R207, R209, R212). -/

namespace Sys2Proof.Sha256

open Sys2Proof.Machine

theorem hashBlocks_zero (p : List Byte) : hashBlocks 0 p = shaH0 := by
  rw [hashBlocks, List.range_zero, List.foldl_nil]

/-- The next block is compressed into the hash of the blocks before it. -/
theorem hashBlocks_succ (n : Nat) (p : List Byte) :
    hashBlocks (n + 1) p = compress (hashBlocks n p) ((p.drop (64 * n)).take 64) := by
  rw [hashBlocks, List.range_succ, List.foldl_append, List.foldl_cons, List.foldl_nil, hashBlocks]

/-- Whole blocks of a message hash the same with more bytes behind it. -/
theorem hashBlocks_append {n : Nat} {m : List Byte} (d : List Byte) (h : 64 * n ≤ m.length) :
    hashBlocks n (m ++ d) = hashBlocks n m := by
  induction n with
  | zero => rw [hashBlocks_zero, hashBlocks_zero]
  | succ n ih =>
    rw [hashBlocks_succ, hashBlocks_succ, ih (by omega), List.drop_append_of_le_length (by omega),
      List.take_append_of_le_length (by rw [List.length_drop]; omega)]

/-- The loop of SHA_UPDATE goes on with the blocks where the hash stopped. -/
theorem absorbBlocks_hashBlocks (n q : Nat) (p : List Byte) :
    (absorbBlocks n (hashBlocks q p) (p.drop (64 * q))).1 = hashBlocks (q + n) p := by
  induction n generalizing q with
  | zero => rfl
  | succ n ih =>
    rw [absorbBlocks, ← hashBlocks_succ, List.drop_drop, ← Nat.mul_succ, ih, Nat.succ_add_eq_add_succ]

namespace Holds

variable {c : ShaContext} {m : List Byte}

theorem started (h : Holds c m) : c.started = true := by
  rw [ShaContext.started_iff, h.state]
  by_cases hm : m = [] <;> simp [hm]

/-- The buffered bytes with new bytes behind them are the longer message without the blocks already hashed. -/
theorem buffered_append (h : Holds c m) (d : List Byte) :
    c.buffered ++ d = (m ++ d).drop (64 * (m.length / 64)) := by
  rw [h.tail, List.drop_append_of_le_length (Nat.mul_div_le _ _)]

/-- Absorbing bytes puts them behind the message held. -/
theorem absorb (h : Holds c m) {d : List Byte} (hd : d ≠ []) (hmax : m.length + d.length ≤ Config.shaMaxBytes) :
    Holds (c.absorb d) (m ++ d) where
  short := by rwa [List.length_append]
  total := by rw [ShaContext.toNat_absorb_total (by rwa [h.total]), h.total, List.length_append]
  count := by
    rw [ShaContext.toNat_absorb_count, h.count, List.length_append]
    omega
  hash := by
    have hblocks : m.length / 64 + (c.buffered ++ d).length / 64 = (m ++ d).length / 64 := by
      simp only [List.length_append, ShaContext.length_buffered, h.count]
      omega
    rw [ShaContext.absorb_h, h.hash, ← hashBlocks_append d (Nat.mul_div_le _ _), h.buffered_append,
      absorbBlocks_hashBlocks, ← h.buffered_append, hblocks]
  tail := by
    rw [ShaContext.absorb_buffered, h.buffered_append, List.drop_drop]
    congr 1
    simp only [List.length_drop, List.length_append]
    omega
  state := by simp [hd]

end Holds

/-- SHA_UPDATE within the limits, on a context that holds a message, succeeds and puts the window's first bytes behind the message;
with length 0 the context itself stays. -/
theorem execShaUpdate_holds {s : State} {m : List Byte} {len : Nat} (h : Holds s.sha m) (hlen : len ≤ 64)
    (hmax : m.length + len ≤ Config.shaMaxBytes) :
    ∃ c, execShaUpdate len s = .next ((s.setSha c).finish .none) ∧ Holds c (m ++ s.snap.message len) ∧
      (len = 0 → c = s.sha) := by
  have htotal := h.total
  rw [execShaUpdate, h.started, if_neg (by simp), if_neg (by omega), if_neg (by omega)]
  by_cases hz : len = 0
  · subst hz
    exact ⟨s.sha, rfl, by simpa [Snapshot.message] using h, fun _ => rfl⟩
  · refine ⟨s.sha.absorb (s.snap.message len), if_neg hz, h.absorb ?_ (by rwa [length_message]), fun hz' => (hz hz').elim⟩
    rw [← List.length_pos_iff, length_message]
    omega

end Sys2Proof.Sha256
end

section
/-! SUPPORT. Reasoning about every run of a host program (30_encoding.md R98, R99): what a core slot and each action may do, as rules
over the actions still to come. -/

namespace Sys2Proof.Machine

/-! ### Steps and the list of events -/

theorem internalStep_inputs {s t : State} (h : internalStep s = .next t) : t.inputs = s.inputs := by
  rcases internalStep_cases h with ⟨-, rfl⟩ | ⟨-, -, h⟩ | ⟨-, -, rfl⟩
  · rfl
  · rcases complete_cases h with ⟨i, -, hi⟩ | ⟨-, rfl⟩
    · obtain ⟨e, dout, digest, rdata, aes, sha, hexec⟩ := exec_forms i s
      obtain rfl := Host.Outcome.next.inj (hexec.symm.trans hi)
      rfl
    · rfl
  · rfl

theorem access_inputs (s : State) (a : BusAccess) : (s.access a).inputs = s.inputs := by
  rcases access_cases s a with ⟨-, ha⟩ | ⟨-, -, ha⟩ | ⟨v, -, -, ha⟩ <;> rw [ha]
  · rfl
  · rfl
  · exact writeReg_inputs s _ v

/-- A step takes the next event off the list. -/
theorem step_inputs {s t : State} (h : step s = .next t) : t.inputs = s.inputs.tail := by
  rcases step_cases h with ⟨hs, ht⟩ | ⟨es, hs, ht⟩ | ⟨es, hs, rfl⟩ | ⟨a, es, hs, rfl⟩
  · rw [internalStep_inputs ht, hs, List.tail_nil]
  · rw [internalStep_inputs ht, hs]
    rfl
  · rw [hs]
    rfl
  · rw [access_inputs, hs]
    rfl

theorem runSteps_succ {s t : State} (n : Nat) (h : step s = .next t) : runSteps (n + 1) s = runSteps n t := by
  rw [runSteps, h]

/-! ### The rules -/

/-- Every run of the host actions from the state, with the events that stand in it, goes through and ends in `Q`. -/
def Leads (acts : List HostAction) (Q : State → Prop) (s : State) : Prop :=
  hostPlays s.inputs acts s = true → ∃ t, runSteps s.inputs.length s = .next t ∧ t.inputs = [] ∧ Q t

/-- A slot of the core keeps `P`. -/
def KeptByCore (P : State → Prop) : Prop :=
  ∀ s t es, P s → internalStep (s.withInputs es) = .next t → P t

/-- A run is empty, or takes the step of its first event and goes on from there. -/
theorem leads_of_step {acts : List HostAction} {Q : State → Prop} {s : State} (hend : acts = [] → Q s)
    (hstep : ∀ e es t rest, s.inputs = e :: es → step s = .next t → hostAfter acts e t.response = some rest →
      t.inputs = es → Leads rest Q t) : Leads acts Q s := by
  intro hplays
  cases hs : s.inputs with
  | nil =>
    rw [hs, hostPlays_nil, List.isEmpty_iff] at hplays
    exact ⟨s, rfl, hs, hend hplays⟩
  | cons e es =>
    rw [hs] at hplays
    obtain ⟨t, rest, ht, hrest, hplays⟩ := hostPlays_cons hplays
    have hself : s.withInputs (e :: es) = s := by rw [← hs]; rfl
    rw [hself] at ht
    have hes : t.inputs = es := by rw [step_inputs ht, hs, List.tail_cons]
    rw [List.length_cons, runSteps_succ _ ht, ← hes]
    exact hstep e es t rest hs ht hrest hes (hes.symm ▸ hplays)

/-- The induction over the events: the slots of the core before the next access, and the reads that a `wait` repeats, keep `P`; what
the access itself leads to is left to show. -/
theorem leads_of_kept {P Q : State → Prop} {acts : List HostAction} (hP : KeptByCore P)
    (hend : acts = [] → ∀ s, P s → Q s)
    (hact : ∀ s t es a rest, acts = a :: rest → P s → s.inputs = a.event :: es → step s = .next t →
      (a = .wait → readsBusy t.response = true → P t) ∧
        ((a = .wait → readsBusy t.response = false) → Leads rest Q t))
    {s : State} (hs : P s) : Leads acts Q s := by
  induction hn : s.inputs generalizing s with
  | nil =>
    refine leads_of_step (fun h => hend h s hs) fun e es t rest hes => ?_
    cases hn.symm.trans hes
  | cons e es ih =>
    refine leads_of_step (fun h => hend h s hs) fun e' es' t rest hes ht hrest htes => ?_
    obtain ⟨rfl, rfl⟩ := List.cons.inj (hn.symm.trans hes)
    rcases hostAfter_cases hrest with ⟨rfl, rfl⟩ | ⟨a, as, hacts, rfl, ⟨ha, hbusy, rfl⟩ | ⟨hidle, rfl⟩⟩
    · exact ih (hP s t es hs (step_idle hn ▸ ht)) htes
    · exact ih ((hact s t es a as hacts hs hn ht).1 ha hbusy) htes
    · exact (hact s t es a rest hacts hs hn ht).2 hidle

/-- At the program's end only slots of the core may follow. -/
theorem leads_nil {Q : State → Prop} (hQ : KeptByCore Q) {s : State} (hs : Q s) : Leads [] Q s :=
  leads_of_kept hQ (fun _ _ h => h) (fun _ _ _ _ _ h => absurd h.symm (List.cons_ne_nil _ _)) hs

/-- A write happens from a state with `P`, wherever the slots of the core before it fall. -/
theorem leads_wr {P Q : State → Prop} {acts : List HostAction} {off : Nat} {v : Word} (hP : KeptByCore P)
    (ha : off % 4 = 0) (hw : off < 0x100)
    (hact : ∀ s es, P s → Leads acts Q ((writeReg (s.withInputs es) off v).respond .ack))
    {s : State} (hs : P s) : Leads (.wr off v :: acts) Q s := by
  refine leads_of_kept hP nofun (fun s t es a rest hcons hs hes ht => ?_) hs
  obtain ⟨rfl, rfl⟩ := List.cons.inj hcons
  obtain rfl := Host.Outcome.next.inj ((step_hostWr hes ha hw).symm.trans ht)
  exact ⟨nofun, fun _ => hact s es hs⟩

/-- A `wait` ends in a state that is not busy, since its last read of STATUS saw one. -/
theorem leads_wait {P Q : State → Prop} {acts : List HostAction} (hP : KeptByCore P)
    (hread : ∀ s es r, P s → P ((s.withInputs es).respond r)) (hact : ∀ s, P s → s.busy = false → Leads acts Q s)
    {s : State} (hs : P s) : Leads (.wait :: acts) Q s := by
  refine leads_of_kept hP nofun (fun s t es a rest hcons hs hes ht => ?_) hs
  obtain ⟨rfl, rfl⟩ := List.cons.inj hcons
  obtain rfl := Host.Outcome.next.inj ((step_hostRd hes rfl (by decide)).symm.trans ht)
  refine ⟨fun _ _ => hread s es _ hs, fun hidle => hact _ (hread s es _ hs) ?_⟩
  rw [State.respond_busy, ← readsBusy_status]
  exact hidle rfl

end Sys2Proof.Machine
end

section
/-! PROOFS. The host program `sha.bytes` (30_encoding.md R99), piece by piece (O53). -/

namespace Sys2Proof.Machine

open Sys2Proof.Sha256 (Holds)

/-! ### The bytes in the window -/

theorem length_packWords (p : List Byte) : (packWords p).length = (p.length + 3) / 4 := by
  induction p using packWords.induct with
  | case1 => rfl
  | case2 a => simp [packWords]
  | case3 a b => simp [packWords]
  | case4 a b c => simp [packWords]
  | case5 a b c d m ih =>
    rw [packWords, List.length_cons, ih]
    simp only [List.length_cons]
    omega

theorem byteAt_packWords {p : List Byte} {i : Nat} (hi : i < p.length) :
    byteAt ((packWords p).getD (i / 4) 0) (i % 4) = p[i] := by
  induction p using packWords.induct generalizing i with
  | case1 => cases hi
  | case2 a =>
    rw [List.length_singleton] at hi
    interval_cases i
    simp [packWords]
  | case3 a b =>
    rw [List.length_cons, List.length_singleton] at hi
    interval_cases i <;> simp [packWords]
  | case4 a b c =>
    rw [List.length_cons, List.length_cons, List.length_singleton] at hi
    interval_cases i <;> simp [packWords]
  | case5 a b c d m ih =>
    by_cases hfirst : i < 4
    · interval_cases i <;> simp [packWords]
    · obtain ⟨j, rfl⟩ := Nat.exists_eq_add_of_le' (Nat.not_lt.mp hfirst)
      have hj : j < m.length := by simpa using hi
      simpa [packWords, Nat.add_div_right] using ih hj

/-- With the words of a byte string at the front of the window, the message bytes taken from it are that string. -/
theorem message_packWords {sn : Snapshot} {p : List Byte}
    (h : ∀ i < (packWords p).length, wordAt sn.msg i = (packWords p).getD i 0) : sn.message p.length = p := by
  refine List.ext_getElem (length_message _ _) fun i _ hi => ?_
  have hword := h (i / 4) (by rw [length_packWords]; omega)
  simp only [Snapshot.message, List.getElem_map, List.getElem_range, Snapshot.msgByte, packedByte]
  rw [hword, byteAt_packWords hi]

/-! ### The stages of one piece -/

/-- What `sha.bytes` leaves as it was in `s₀`, and no error. -/
structure HashFrame (s₀ s : State) : Prop where
  err : s.status.err = .none
  overrun : s.status.overrun = s₀.status.overrun
  aes : s.aes = s₀.aes
  digest : s.regs.digest = s₀.regs.digest

/-- Between two commands: the context holds `m`, and the words `ws` of the next piece stand at the front of the window. -/
structure Filling (s₀ : State) (m : List Byte) (ws : List Word) (s : State) : Prop extends HashFrame s₀ s where
  busy : s.busy = false
  holds : Holds s.sha m
  window : ∀ i < ws.length, wordAt s.regs.msg i = ws.getD i 0

/-- The SHA_UPDATE of the piece `p` is pending: the context still holds `m`, and `p` is in the snapshot. -/
structure Updating (s₀ : State) (m p : List Byte) (s : State) : Prop extends HashFrame s₀ s where
  busy : s.busy = true
  holds : Holds s.sha m
  pending : s.pending = encode (.shaUpdate p.length)
  message : s.snap.message p.length = p

/-- During the `wait` behind the piece `p`: its SHA_UPDATE is pending or has completed. -/
def Waiting (s₀ : State) (m p : List Byte) (s : State) : Prop := Updating s₀ m p s ∨ Filling s₀ (m ++ p) [] s

section
variable {s₀ s t : State} {m p : List Byte} {ws : List Word}

theorem Filling.keptByCore : KeptByCore (Filling s₀ m ws) := by
  intro s t es h ht
  rcases internalStep_cases ht with ⟨-, rfl⟩ | ⟨-, hbusy, -⟩ | ⟨-, -, rfl⟩
  · exact { h with }
  · exact absurd (h.busy.symm.trans hbusy) (by decide)
  · exact { h with }

/-- The next word of the piece is written. -/
theorem Filling.write (h : Filling s₀ m ws s) (w : Word) (es : List PortEvent) (hlen : ws.length < 16) :
    Filling s₀ m (ws ++ [w]) ((writeReg (s.withInputs es) (0x50 + 4 * ws.length) w).respond .ack) := by
  rw [writeReg_msg _ _ (by omega)]
  refine { h with window := fun i hi => ?_ }
  have hk : (0x50 + 4 * ws.length - 0x50) / 4 = ws.length := by omega
  rw [List.length_append, List.length_singleton] at hi
  rw [State.respond_regs, State.setMsg_regs, State.withInputs_regs, wordAt_setIfInBounds, hk]
  by_cases hlast : i = ws.length
  · simp [hlast, hlen]
  · rw [if_neg (by omega), h.window i (by omega), List.getD_append _ _ _ _ (by omega)]

/-- The piece is in the window, and its SHA_UPDATE is accepted. -/
theorem Filling.accept (h : Filling s₀ m (packWords p) s) (es : List PortEvent) :
    Updating s₀ m p ((writeReg (s.withInputs es) 0x00 (encode (.shaUpdate p.length))).respond .ack) := by
  rw [writeReg_cmd, offer_of_not_busy (by exact h.busy)]
  exact { h with
    err := rfl
    busy := rfl
    pending := rfl
    message := message_packWords h.window }

/-- The completion puts the piece behind the message held. -/
theorem Updating.complete (h : Updating s₀ m p s) (hlen : p.length ≤ 64)
    (hmax : m.length + p.length ≤ Config.shaMaxBytes) (ht : complete s = .next t) : Filling s₀ (m ++ p) [] t := by
  have hdecode : decode s.pending = .ok (.shaUpdate p.length) := by
    rw [h.pending]
    exact encodedCommandDecodesBack _ (decide_eq_true (by omega))
  obtain ⟨c, hexec, hc, -⟩ := Sha256.execShaUpdate_holds h.holds hlen hmax
  rw [complete_of_decode hdecode] at ht
  obtain rfl := Host.Outcome.next.inj (hexec.symm.trans ht)
  rw [h.message] at hc
  exact { h with
    err := rfl
    busy := rfl
    holds := hc
    window := nofun }

theorem Waiting.keptByCore (hlen : p.length ≤ 64) (hmax : m.length + p.length ≤ Config.shaMaxBytes) :
    KeptByCore (Waiting s₀ m p) := by
  intro s t es h ht
  rcases h with h | h
  · have h : Updating s₀ m p (s.withInputs es) := { h with }
    rcases internalStep_cases ht with ⟨-, rfl⟩ | ⟨-, -, hc⟩ | ⟨-, hidle, -⟩
    · exact .inl { h with }
    · exact .inr (h.complete hlen hmax hc)
    · exact absurd (h.busy.symm.trans hidle) (by decide)
  · exact .inr (Filling.keptByCore s t es h ht)

theorem Waiting.respond (h : Waiting s₀ m p s) (es : List PortEvent) (r : BusResponse) :
    Waiting s₀ m p ((s.withInputs es).respond r) :=
  h.imp (fun h => { h with }) (fun h => { h with })

theorem Waiting.done (h : Waiting s₀ m p s) (hb : s.busy = false) : Filling s₀ (m ++ p) [] s :=
  h.resolve_left fun h => absurd (h.busy.symm.trans hb) (by decide)

end

/-! ### The pieces -/

section
variable {s₀ : State} {m : List Byte} {Q : State → Prop} {acts : List HostAction}

/-- Writing the words behind those that stand in the window already. -/
theorem leads_hostWords {ws : List Word} (us : List Word) (hlen : us.length + ws.length ≤ 16)
    (hrest : ∀ s, Filling s₀ m (us ++ ws) s → Leads acts Q s) {s : State} (hs : Filling s₀ m us s) :
    Leads (hostWords (0x50 + 4 * us.length) ws ++ acts) Q s := by
  induction ws generalizing us s with
  | nil => exact hrest s (us.append_nil.symm ▸ hs)
  | cons w ws ih =>
    rw [List.length_cons] at hlen
    rw [hostWords, List.cons_append]
    refine leads_wr Filling.keptByCore (by omega) (by omega) (fun s es hs => ?_) hs
    have ih := ih (us ++ [w]) (by rw [List.length_append, List.length_singleton]; omega)
      (by rwa [List.append_assoc, List.singleton_append]) (hs.write w es (by omega))
    rwa [List.length_append, List.length_singleton, Nat.mul_succ, ← Nat.add_assoc] at ih

/-- One piece: its words, its SHA_UPDATE, and the `wait` for it. -/
theorem leads_hostShaPiece {p : List Byte} (hlen : p.length ≤ 64) (hmax : m.length + p.length ≤ Config.shaMaxBytes)
    (hrest : ∀ s, Filling s₀ (m ++ p) [] s → Leads acts Q s) {s : State} (hs : Filling s₀ m [] s) :
    Leads (hostShaPiece p ++ acts) Q s := by
  rw [hostShaPiece, List.append_assoc]
  refine leads_hostWords [] (by simp only [length_packWords, List.length_nil]; omega) (fun s hs => ?_) hs
  refine leads_wr Filling.keptByCore rfl (by decide) (fun s es hs => ?_) hs
  exact leads_wait (Waiting.keptByCore hlen hmax) (fun s es r h => h.respond es r) (fun s h hb => hrest s (h.done hb))
    (.inl (hs.accept es))

/-- The first `n` pieces, when they are all of `b`. -/
theorem leads_hostShaPieces (n : Nat) {b : List Byte} (hn : b.length ≤ 64 * n)
    (hmax : m.length + b.length ≤ Config.shaMaxBytes) {s : State} (hs : Filling s₀ m [] s) :
    Leads (hostShaPieces n b) (Filling s₀ (m ++ b) []) s := by
  induction n generalizing m b s with
  | zero =>
    obtain rfl := List.eq_nil_of_length_eq_zero (Nat.le_zero.mp hn)
    exact leads_nil Filling.keptByCore (m.append_nil.symm ▸ hs)
  | succ n ih =>
    have hsplit : b.length = (b.take 64).length + (b.drop 64).length := by
      rw [← List.length_append, List.take_append_drop]
    rw [hostShaPieces]
    refine leads_hostShaPiece (by simp) (by omega) (fun s hs => ?_) hs
    have ih := ih (b := b.drop 64) (by rw [List.length_drop]; omega) (by rw [List.length_append]; omega) hs
    rwa [List.append_assoc, List.take_append_drop] at ih

end

/-- Settles O53: each piece of the program adds its bytes to the message held, so all of them add `b`. -/
theorem shaBytesAbsorbsAnyLength : Obligations.ShaBytesAbsorbsAnyLength := by
  intro s m b hb herr hm hmax hplays
  have hs : Filling s m [] s := ⟨⟨herr, rfl, rfl, rfl⟩, hb, hm, nofun⟩
  obtain ⟨t, hrun, hes, ht⟩ := leads_hostShaPieces ((b.length + 63) / 64) (by omega) hmax hs hplays
  exact ⟨t, hrun, ht.holds, hes, ht.busy, ht.err, ht.overrun, ht.aes, ht.digest⟩

end Sys2Proof.Machine
end

section
/-! PROOFS. The table generator's flag TBL_READY (O10) and its command TBL_READ (O36). -/

namespace Sys2Proof.Machine

/-! ### TBL_READY -/

theorem exec_tblReady {i : Instr} {s t : State} (h : exec i s = .next t) : t.tblReady = s.tblReady := by
  obtain ⟨e, dout, digest, rdata, aes, sha, hexec⟩ := exec_forms i s
  obtain rfl := Host.Outcome.next.inj (hexec.symm.trans h)
  rfl

theorem complete_tblReady {s t : State} (h : complete s = .next t) : t.tblReady = s.tblReady := by
  rcases complete_cases h with ⟨i, -, hi⟩ | ⟨-, rfl⟩
  · exact exec_tblReady hi
  · rfl

/-- A slot of the core leaves the tables ready: the generator has made them, or they were. -/
theorem internalStep_tblReady {s t : State} (h : internalStep s = .next t) : t.tblReady = true := by
  rcases internalStep_cases h with ⟨-, rfl⟩ | ⟨hr, -, hc⟩ | ⟨hr, -, rfl⟩
  · rfl
  · exact (complete_tblReady hc).trans hr
  · exact hr

theorem writeReg_tblReady (s : State) (off : Nat) (v : Word) : (writeReg s off v).tblReady = s.tblReady := by
  rcases writeReg_cases s off v with ⟨-, -, hw⟩ | ⟨-, -, hw⟩ | ⟨-, hw⟩ | ⟨-, hw⟩ | ⟨-, hw⟩ | ⟨-, hw⟩ | ⟨-, hw⟩ |
    ⟨-, -, -, -, hw⟩ <;> rw [hw] <;> rfl

theorem access_tblReady (s : State) (a : BusAccess) : (s.access a).tblReady = s.tblReady := by
  rcases access_cases s a with ⟨-, ha⟩ | ⟨-, -, ha⟩ | ⟨v, -, -, ha⟩ <;> rw [ha]
  · rfl
  · rfl
  · exact writeReg_tblReady s _ v

/-- Settles O10, by the slot the step takes: after a slot of the core the tables are ready, after a reset they are not, and an
access leaves the flag. -/
theorem tablesStayReadyUntilReset : Obligations.TablesStayReadyUntilReset := by
  intro s t h
  rcases step_cases h with ⟨hs, hi⟩ | ⟨es, hs, hi⟩ | ⟨es, hs, rfl⟩ | ⟨a, es, -, rfl⟩
  · exact ⟨fun _ ht => by simp [internalStep_tblReady hi] at ht, fun _ _ => .inl hs⟩
  · exact ⟨fun _ ht => by simp [internalStep_tblReady hi] at ht, fun _ _ => .inr ⟨es, hs⟩⟩
  · exact ⟨fun _ _ => ⟨es, hs⟩, nofun⟩
  · have hkeep : ((s.withInputs es).access a).tblReady = s.tblReady := access_tblReady _ a
    exact ⟨fun hr ht => by simp [hkeep, hr] at ht, fun hr ht => by simp [hkeep, hr] at ht⟩

/-! ### TBL_READ -/

theorem execTblRead_of_inRange {table index : Nat} (s : State)
    (h : (table < 16 ∧ index ≤ 255) ∨ (table = 16 ∧ index ≤ 9)) :
    execTblRead table index s = .next ((s.setRdata (tableEntry table index)).finish .none) := by
  unfold execTblRead
  rw [if_neg (by omega), if_neg (by omega), if_neg (by omega), succeed_eq]

/-- Settles O36: the word is `tableEntry`, which is the entry of the table that the list of R126 names, id by id. -/
theorem tblReadReturnsTheEntry : Obligations.TblReadReturnsTheEntry := by
  intro s id i h
  refine ⟨tableEntry id i, ?_, execTblRead_of_inRange s h⟩
  have hid : id ≤ 16 := by omega
  clear h
  interval_cases id <;> rfl

end Sys2Proof.Machine
end

section
/-! PROOFS. The field GF(2^8): the powers of {03} and their logarithms (O33), and the multiplier (O32). -/

namespace Sys2Proof.Machine

/-! ### Multiplication by {02} and by {03} -/

theorem xtime_eq (a : Byte) : xtime a = if a.getLsbD 7 then (a <<< 1) ^^^ 0x1B else a <<< 1 := rfl

/-- Bit 7 says whether the byte is at least 128: then the shift loses 256 and the reduction constant comes in (R111). -/
theorem toNat_xtime (a : Byte) :
    (xtime a).toNat = if a.toNat < 128 then 2 * a.toNat else (2 * a.toNat - 256) ^^^ 0x1B := by
  have hlt : a.toNat < 256 := a.isLt
  have hbit : a.getLsbD 7 = decide (128 ≤ a.toNat) := BitVec.msb_eq_decide a
  have hshift : (a <<< 1).toNat = 2 * a.toNat % 256 := by
    rw [BitVec.toNat_shiftLeft, Nat.shiftLeft_eq, Nat.mul_comm]
  rw [xtime_eq, hbit]
  by_cases h : a.toNat < 128
  · rw [if_neg (by simpa using h), if_pos h, hshift]
    omega
  · rw [if_pos (by simpa using h), if_neg h, BitVec.toNat_xor, hshift, show 2 * a.toNat % 256 = 2 * a.toNat - 256 by omega]
    rfl

theorem xtime_xor (a b : Byte) : xtime (a ^^^ b) = xtime a ^^^ xtime b := by
  simp only [xtime_eq, BitVec.getLsbD_xor, BitVec.shiftLeft_xor_distrib]
  generalize a <<< 1 = x, b <<< 1 = y
  cases a.getLsbD 7 <;> cases b.getLsbD 7
  · rfl
  · exact BitVec.xor_assoc x y 0x1B
  · show x ^^^ y ^^^ 0x1B = (x ^^^ 0x1B) ^^^ y
    ac_rfl
  · show x ^^^ y = (x ^^^ 0x1B) ^^^ (y ^^^ 0x1B)
    calc x ^^^ y = x ^^^ y ^^^ (0x1B ^^^ 0x1B) := by simp
      _ = (x ^^^ 0x1B) ^^^ (y ^^^ 0x1B) := by ac_rfl

/-- Multiplication by {03}, the generator of the pow table (R113). -/
def timesThree (a : Byte) : Byte := a ^^^ xtime a

theorem timesThree_xor (a b : Byte) : timesThree (a ^^^ b) = timesThree a ^^^ timesThree b := by
  simp only [timesThree, xtime_xor]
  ac_rfl

theorem xtime_timesThree (a : Byte) : xtime (timesThree a) = timesThree (xtime a) := xtime_xor a (xtime a)

/-! ### Powers and logarithms -/

theorem getElem?_genPowFrom_succ {n i : Nat} (x : Byte) (h : i + 1 < n) :
    (genPowFrom n x)[i + 1]? = (genPowFrom n x)[i]?.map timesThree := by
  induction n generalizing i x with
  | zero => omega
  | succ n ih =>
    cases i with
    | zero =>
      obtain ⟨m, rfl⟩ : ∃ m, n = m + 1 := ⟨n - 1, by omega⟩
      rfl
    | succ i => exact ih (timesThree x) (by omega)

theorem getElem?_genPow {i : Nat} (h : i < 256) : genPow[i]? = some (pow i) := by
  simp [powRom_is_generated, h]

/-- Each entry of the pow table is {03} times the one before it. -/
theorem pow_succ_eq_timesThree {i : Nat} (h : i < 255) : pow (i + 1) = timesThree (pow i) := by
  have hstep := getElem?_genPowFrom_succ 0x01 (show i + 1 < 256 by omega)
  rw [← genPow, getElem?_genPow (by omega), getElem?_genPow (by omega)] at hstep
  exact Option.some.inj hstep

/-- The powers of {03} repeat after 255. -/
theorem pow_succ_mod_eq_timesThree (n : Nat) : pow ((n + 1) % 255) = timesThree (pow (n % 255)) := by
  have hlt : n % 255 < 255 := Nat.mod_lt _ (by decide)
  rw [← pow_succ_eq_timesThree hlt]
  by_cases h : n % 255 = 254
  · rw [h, show (n + 1) % 255 = 0 by omega]
    rfl
  · rw [show (n + 1) % 255 = n % 255 + 1 by omega]

/-- The logarithm undoes the power: a check of the two ROMs, entry by entry. -/
theorem log_pow : ∀ i < 255, log (pow i) = BitVec.ofNat 8 i := by decide +kernel

/-- The power, its exponent taken mod 255 as the multiplier does, undoes the logarithm: a check of the two ROMs, entry by entry. -/
theorem pow_log : ∀ a : Byte, a ≠ 0 → pow ((log a).toNat % 255) = a := by decide +kernel

/-- Settles O33: the powers follow the loop that the pow ROM is generated by, and the logarithms are read off the two ROMs. -/
theorem powAndLogTables : Obligations.PowAndLogTables :=
  ⟨toNat_xtime, ⟨rfl, fun _ h => pow_succ_eq_timesThree h⟩, rfl, log_pow⟩

/-! ### The product -/

/-- An additive map of the bytes that passes over doubling passes over the shift-and-add product, which is made of XORs and
doublings. -/
theorem mul_map {f : Byte → Byte} (hxor : ∀ a b, f (a ^^^ b) = f a ^^^ f b) (hxtime : ∀ a, xtime (f a) = f (xtime a))
    (a b : Byte) : Fips197.mul (f a) b = f (Fips197.mul a b) := by
  have hzero : f 0 = 0 := by simpa using hxor 0 0
  have hxtimes (k : Nat) : Fips197.xtimes k (f a) = f (Fips197.xtimes k a) := by
    induction k with
    | zero => rfl
    | succ k ih => rw [Fips197.xtimes, ih, hxtime, Fips197.xtimes]
  rw [Fips197.mul, ← hzero]
  refine List.foldl_hom f fun p k => ?_
  rw [hxtimes, ← hxor, apply_ite f]

theorem mul_xtime (a b : Byte) : Fips197.mul (xtime a) b = xtime (Fips197.mul a b) :=
  mul_map xtime_xor (fun _ => rfl) a b

theorem mul_timesThree (a b : Byte) : Fips197.mul (timesThree a) b = timesThree (Fips197.mul a b) :=
  mul_map timesThree_xor xtime_timesThree a b

theorem mul_zero_left (b : Byte) : Fips197.mul 0 b = 0 := mul_map (f := fun _ => 0) (fun _ _ => rfl) (fun _ => rfl) 0 b

theorem mul_zero_right (a : Byte) : Fips197.mul a 0 = 0 := by
  simp [Fips197.mul]

/-- The bits of `b`, added up one by one, are `b`. -/
theorem mul_one_left : ∀ b, Fips197.mul 0x01 b = b := by decide +kernel

/-- Multiplying by a power of {03} adds its exponent to the logarithm: by induction on the exponent. -/
theorem mul_pow_mod {b : Byte} (hb : b ≠ 0) (n : Nat) :
    Fips197.mul (pow (n % 255)) b = pow ((n + (log b).toNat) % 255) := by
  induction n with
  | zero =>
    rw [Nat.zero_add, pow_log b hb]
    exact mul_one_left b
  | succ n ih => rw [pow_succ_mod_eq_timesThree, mul_timesThree, ih, ← pow_succ_mod_eq_timesThree, Nat.add_right_comm]

theorem gmul_eq_mul (a b : Byte) : gmul a b = Fips197.mul a b := by
  unfold gmul
  split
  next h =>
    rcases h with rfl | rfl
    · exact (mul_zero_left b).symm
    · exact (mul_zero_right a).symm
  next h =>
    obtain ⟨ha, hb⟩ := not_or.mp h
    rw [← mul_pow_mod hb, pow_log a ha]

/-- Settles O32: `gmul_eq_mul`, with the multiplier's own formula as the second half. -/
theorem multiplierIsTheFieldProduct : Obligations.MultiplierIsTheFieldProduct :=
  fun a b => ⟨gmul_eq_mul a b, (gmul_eq_mul a b).symm⟩

end Sys2Proof.Machine
end

section
/-! PROOFS. The S-boxes (O34) and the tables made of field products (O35). -/

namespace Sys2Proof.Machine

/-! ### The S-boxes -/

theorem rotl8_eq_rotateLeft (b : Byte) {n : Nat} (h : n < 8) : rotl8 b n = b.rotateLeft n := by
  rw [rotl8, BitVec.rotateLeft, BitVec.rotateLeftAux, Nat.mod_eq_of_lt h]

/-- Each S-box entry is what the construction of R115 makes. -/
theorem sbox_eq_genSboxEntry (a : Byte) : sbox a = genSboxEntry a.toNat := by
  have h := List.map_inj_left.mp sboxRom_is_generated a.toNat (List.mem_range.mpr a.isLt)
  rw [h, BitVec.ofNat_toNat, BitVec.setWidth_eq]

theorem genSboxEntry_toNat (a : Byte) {x : Byte} (hx : x = if a = 0 then 0x00 else pow (255 - (log a).toNat)) :
    genSboxEntry a.toNat =
      x ^^^ x.rotateLeft 1 ^^^ x.rotateLeft 2 ^^^ x.rotateLeft 3 ^^^ x.rotateLeft 4 ^^^ 0x63 := by
  have hzero : a.toNat = 0 ↔ a = 0 := (BitVec.toNat_eq (y := 0)).symm
  simp only [genSboxEntry, BitVec.ofNat_toNat, BitVec.setWidth_eq, hzero, ← hx]
  rw [rotl8_eq_rotateLeft x (by decide), rotl8_eq_rotateLeft x (by decide), rotl8_eq_rotateLeft x (by decide),
    rotl8_eq_rotateLeft x (by decide)]

/-- The inverse S-box undoes the S-box: a check of the two ROMs, entry by entry. -/
theorem invSbox_sbox : ∀ a, invSbox (sbox a) = a := by decide +kernel

/-- The S-box undoes its inverse: being injective on the finitely many bytes, it meets every byte. -/
theorem sbox_invSbox (a : Byte) : sbox (invSbox a) = a := by
  have hinj : Function.Injective sbox := Function.LeftInverse.injective invSbox_sbox
  obtain ⟨b, rfl⟩ := Finite.surjective_of_injective hinj a
  rw [invSbox_sbox]

/-! ### The T-tables -/

theorem ft_eq_rotateRight {k : Nat} (h : k ≤ 3) (a : Byte) : ft k a = (ft0 a).rotateRight (8 * k) :=
  rotr32_eq_rotateRight _ _ (by omega)

theorem rt_eq_rotateRight {k : Nat} (h : k ≤ 3) (a : Byte) : rt k a = (rt0 a).rotateRight (8 * k) :=
  rotr32_eq_rotateRight _ _ (by omega)

theorem ft_zero (a : Byte) : ft 0 a = ft0 a := rotr32_zero _

theorem rt_zero (a : Byte) : rt 0 a = rt0 a := rotr32_zero _

/-- Settles O34: each S-box entry is what its ROM is generated by, and each T-table is a rotation of its table 0. -/
theorem sboxTables : Obligations.SboxTables := by
  refine ⟨fun a x hx => ?_, fun a => ⟨invSbox_sbox a, sbox_invSbox a⟩, fun k a _ hk => ?_⟩
  · rw [sbox_eq_genSboxEntry, genSboxEntry_toNat a hx]
  · rw [ft_zero, rt_zero]
    exact ⟨ft_eq_rotateRight hk a, rt_eq_rotateRight hk a⟩

theorem mul_two_eq_xtime (a : Byte) : Fips197.mul 0x02 a = xtime a :=
  (mul_xtime 0x01 a).trans (congrArg xtime (mul_one_left a))

theorem mul_three_eq (a : Byte) : Fips197.mul 0x03 a = a ^^^ xtime a :=
  (mul_timesThree 0x01 a).trans (congrArg timesThree (mul_one_left a))

theorem ft0_eq (a : Byte) :
    ft0 a = wordOf (Fips197.mul 0x02 (sbox a)) (sbox a) (sbox a) (Fips197.mul 0x03 (sbox a)) := by
  rw [mul_two_eq_xtime, mul_three_eq, ft0]

theorem rt0_eq (a : Byte) :
    rt0 a = wordOf (Fips197.mul 0x0E (invSbox a)) (Fips197.mul 0x09 (invSbox a)) (Fips197.mul 0x0D (invSbox a))
      (Fips197.mul 0x0B (invSbox a)) := by
  simp only [rt0, gmul_eq_mul]

/-- Settles O35: the kt tables are the rt tables at S-box entries, so the two S-boxes cancel in them. -/
theorem transformTables : Obligations.TransformTables := by
  refine ⟨fun a k hk => ⟨?_, ?_, ?_, rfl⟩, by decide⟩
  · rw [ft_eq_rotateRight hk, ft0_eq]
  · rw [rt_eq_rotateRight hk, rt0_eq]
  · rw [kt, rt_eq_rotateRight hk, rt0_eq, invSbox_sbox]

end Sys2Proof.Machine
end

section
/-! SUPPORT. The AES state byte by byte: what each FIPS-197 transformation leaves in each cell and in each word, and that the
inverse transformations undo the forward ones. -/

namespace Sys2Proof.Fips197

open Sys2Proof.Machine

/-! ### Cells and words -/

/-- Rows and columns are counted mod 4. -/
theorem cell_congr (x : Block) {r r' c c' : Nat} (hr : r % 4 = r' % 4) (hc : c % 4 = c' % 4) : cell x r c = cell x r' c' := by
  rw [cell, cell, hr, hc]

theorem cell_add_four (x : Block) (r c : Nat) : cell x (r + 4) c = cell x r c := cell_congr x (by omega) rfl

theorem cell_of_lt (x : Block) {r c : Nat} (hr : r < 4) (hc : c < 4) : cell x r c = byteAt (wordAt x c) r := by
  rw [cell, Nat.mod_eq_of_lt hr, Nat.mod_eq_of_lt hc]

/-- A word of the state is its column of cells. -/
theorem wordOf_cell (x : Block) {c : Nat} (hc : c < 4) :
    wordOf (cell x 0 c) (cell x 1 c) (cell x 2 c) (cell x 3 c) = wordAt x c := by
  rw [cell_of_lt x (by decide) hc, cell_of_lt x (by decide) hc, cell_of_lt x (by decide) hc, cell_of_lt x (by decide) hc,
    wordOf_byteAt]

/-- Two AES states with the same cells are the same state. -/
theorem block_ext {x y : Block} (h : ∀ r c, cell x r c = cell y r c) : x = y :=
  store_ext fun c hc => by rw [← wordOf_cell x hc, ← wordOf_cell y hc, h, h, h, h]

theorem wordAt_ofCells (f : Nat → Nat → Byte) {c : Nat} (hc : c < 4) :
    wordAt (ofCells f) c = wordOf (f 0 c) (f 1 c) (f 2 c) (f 3 c) := by
  rw [ofCells, wordAt_ofFn, dif_pos hc]

theorem cell_ofCells (f : Nat → Nat → Byte) (r c : Nat) : cell (ofCells f) r c = f (r % 4) (c % 4) := by
  have hr : r % 4 < 4 := Nat.mod_lt r (by decide)
  rw [cell, wordAt_ofCells f (Nat.mod_lt c (by decide))]
  generalize r % 4 = q at hr
  interval_cases q
  · exact byteAt_wordOf_zero ..
  · exact byteAt_wordOf_one ..
  · exact byteAt_wordOf_two ..
  · exact byteAt_wordOf_three ..

/-! ### What each transformation leaves in a cell -/

@[simp] theorem cell_subBytes (x : Block) (r c : Nat) : cell (subBytes x) r c = sbox (cell x r c) := by
  rw [subBytes, cell_ofCells, cell_congr x (Nat.mod_mod r 4) (Nat.mod_mod c 4)]

@[simp] theorem cell_invSubBytes (x : Block) (r c : Nat) : cell (invSubBytes x) r c = invSbox (cell x r c) := by
  rw [invSubBytes, cell_ofCells, cell_congr x (Nat.mod_mod r 4) (Nat.mod_mod c 4)]

@[simp] theorem cell_shiftRows (x : Block) (r c : Nat) : cell (shiftRows x) r c = cell x r (c + r) := by
  rw [shiftRows, cell_ofCells]
  exact cell_congr x (Nat.mod_mod r 4) (by omega)

/-- Moving right by `r` is moving left by `3r`, mod 4. -/
@[simp] theorem cell_invShiftRows (x : Block) (r c : Nat) : cell (invShiftRows x) r c = cell x r (c + 3 * r) := by
  rw [invShiftRows, cell_ofCells]
  exact cell_congr x (Nat.mod_mod r 4) (by omega)

@[simp] theorem cell_mixColumns (x : Block) (r c : Nat) :
    cell (mixColumns x) r c =
      mul 0x02 (cell x r c) ^^^ mul 0x03 (cell x (r + 1) c) ^^^ cell x (r + 2) c ^^^ cell x (r + 3) c := by
  rw [mixColumns, cell_ofCells]
  simp only [cell, Nat.mod_add_mod, Nat.mod_mod]

@[simp] theorem cell_invMixColumns (x : Block) (r c : Nat) :
    cell (invMixColumns x) r c =
      mul 0x0E (cell x r c) ^^^ mul 0x0B (cell x (r + 1) c) ^^^ mul 0x0D (cell x (r + 2) c) ^^^
        mul 0x09 (cell x (r + 3) c) := by
  rw [invMixColumns, cell_ofCells]
  simp only [cell, Nat.mod_add_mod, Nat.mod_mod]

@[simp] theorem cell_addKey (x k : Block) (r c : Nat) : cell (addKey x k) r c = cell x r c ^^^ cell k r c := by
  rw [addKey, cell_ofCells, cell_congr x (Nat.mod_mod r 4) (Nat.mod_mod c 4), cell_congr k (Nat.mod_mod r 4) (Nat.mod_mod c 4)]

/-! ### What each transformation leaves in a word -/

/-- MixColumns of one column (93_implementation_defined.md G2). -/
def mixColumn (a b c d : Byte) : Word :=
  wordOf (mul 0x02 a ^^^ mul 0x03 b ^^^ c ^^^ d) (mul 0x02 b ^^^ mul 0x03 c ^^^ d ^^^ a)
    (mul 0x02 c ^^^ mul 0x03 d ^^^ a ^^^ b) (mul 0x02 d ^^^ mul 0x03 a ^^^ b ^^^ c)

/-- InvMixColumns of one column (93_implementation_defined.md G3). -/
def invMixColumn (a b c d : Byte) : Word :=
  wordOf (mul 0x0E a ^^^ mul 0x0B b ^^^ mul 0x0D c ^^^ mul 0x09 d) (mul 0x0E b ^^^ mul 0x0B c ^^^ mul 0x0D d ^^^ mul 0x09 a)
    (mul 0x0E c ^^^ mul 0x0B d ^^^ mul 0x0D a ^^^ mul 0x09 b) (mul 0x0E d ^^^ mul 0x0B a ^^^ mul 0x0D b ^^^ mul 0x09 c)

section
variable (x : Block) {c : Nat} (hc : c < 4)
include hc

theorem wordAt_shiftRows :
    wordAt (shiftRows x) c = wordOf (cell x 0 c) (cell x 1 (c + 1)) (cell x 2 (c + 2)) (cell x 3 (c + 3)) :=
  wordAt_ofCells _ hc

theorem wordAt_invShiftRows :
    wordAt (invShiftRows x) c = wordOf (cell x 0 c) (cell x 1 (c + 3)) (cell x 2 (c + 6)) (cell x 3 (c + 9)) := by
  rw [← wordOf_cell _ hc, cell_invShiftRows, cell_invShiftRows, cell_invShiftRows, cell_invShiftRows]
  rfl

theorem wordAt_mixColumns :
    wordAt (mixColumns x) c = mixColumn (cell x 0 c) (cell x 1 c) (cell x 2 c) (cell x 3 c) :=
  wordAt_ofCells _ hc

theorem wordAt_invMixColumns_eq_invMixColumn :
    wordAt (invMixColumns x) c = invMixColumn (cell x 0 c) (cell x 1 c) (cell x 2 c) (cell x 3 c) :=
  wordAt_ofCells _ hc

theorem wordAt_addKey (k : Block) : wordAt (addKey x k) c = wordAt x c ^^^ wordAt k c := by
  rw [addKey, wordAt_ofCells _ hc, ← wordOf_xor, wordOf_cell x hc, wordOf_cell k hc]

end

/-! ### The product is additive -/

theorem xtimes_xor (k : Nat) (a b : Byte) : xtimes k (a ^^^ b) = xtimes k a ^^^ xtimes k b := by
  induction k with
  | zero => rfl
  | succ k ih => rw [xtimes, ih, xtime_xor, xtimes, xtimes]

theorem mul_commutes (a b : Byte) : mul a b = mul b a := by
  simp only [← gmul_eq_mul, gmul, or_comm, Nat.add_comm]

/-- The sum over the bits of the second factor, taken from the sum of two values on. -/
theorem foldl_xtimes_xor (b : Byte) (ks : List Nat) (p q x y : Byte) :
    ks.foldl (fun p k => if b.getLsbD k then p ^^^ xtimes k (x ^^^ y) else p) (p ^^^ q) =
      ks.foldl (fun p k => if b.getLsbD k then p ^^^ xtimes k x else p) p ^^^
        ks.foldl (fun p k => if b.getLsbD k then p ^^^ xtimes k y else p) q := by
  induction ks generalizing p q with
  | nil => rfl
  | cons k ks ih =>
    simp only [List.foldl_cons]
    rw [← ih, xtimes_xor]
    congr 1
    split
    · ac_rfl
    · rfl

theorem mul_xor (a b c : Byte) : mul a (b ^^^ c) = mul a b ^^^ mul a c := by
  rw [mul_commutes a, mul_commutes a, mul_commutes a]
  exact foldl_xtimes_xor a (List.range 8) 0 0 b c

/-! ### The inverse transformations -/

theorem invSubBytes_subBytes (x : Block) : invSubBytes (subBytes x) = x :=
  block_ext fun r c => by rw [cell_invSubBytes, cell_subBytes, invSbox_sbox]

theorem invShiftRows_shiftRows (x : Block) : invShiftRows (shiftRows x) = x :=
  block_ext fun r c => by
    rw [cell_invShiftRows, cell_shiftRows]
    exact cell_congr x rfl (by omega)

/-- The two matrices of G2 and G3 are inverse: a check of the four coefficients of a row of their product, at every byte. -/
theorem mixMatrices_coefficients : ∀ a : Byte,
    mul 0x0E (mul 0x02 a) ^^^ mul 0x0B a ^^^ mul 0x0D a ^^^ mul 0x09 (mul 0x03 a) = a ∧
    mul 0x0E (mul 0x03 a) ^^^ mul 0x0B (mul 0x02 a) ^^^ mul 0x0D a ^^^ mul 0x09 a = 0 ∧
    mul 0x0E a ^^^ mul 0x0B (mul 0x03 a) ^^^ mul 0x0D (mul 0x02 a) ^^^ mul 0x09 a = 0 ∧
    mul 0x0E a ^^^ mul 0x0B a ^^^ mul 0x0D (mul 0x03 a) ^^^ mul 0x09 (mul 0x02 a) = 0 := by
  decide +kernel

/-- A row of InvMixColumns applied to a mixed column gives the first byte of the column back: the product is additive, so the four
coefficients are taken together byte by byte. -/
theorem invMixRow_mixColumn (a b c d : Byte) :
    mul 0x0E (mul 0x02 a ^^^ mul 0x03 b ^^^ c ^^^ d) ^^^ mul 0x0B (mul 0x02 b ^^^ mul 0x03 c ^^^ d ^^^ a) ^^^
      mul 0x0D (mul 0x02 c ^^^ mul 0x03 d ^^^ a ^^^ b) ^^^ mul 0x09 (mul 0x02 d ^^^ mul 0x03 a ^^^ b ^^^ c) = a := by
  obtain ⟨ha, -, -, -⟩ := mixMatrices_coefficients a
  obtain ⟨-, hb, -, -⟩ := mixMatrices_coefficients b
  obtain ⟨-, -, hc, -⟩ := mixMatrices_coefficients c
  obtain ⟨-, -, -, hd⟩ := mixMatrices_coefficients d
  simp only [mul_xor]
  calc _
    _ = (mul 0x0E (mul 0x02 a) ^^^ mul 0x0B a ^^^ mul 0x0D a ^^^ mul 0x09 (mul 0x03 a)) ^^^
        (mul 0x0E (mul 0x03 b) ^^^ mul 0x0B (mul 0x02 b) ^^^ mul 0x0D b ^^^ mul 0x09 b) ^^^
        (mul 0x0E c ^^^ mul 0x0B (mul 0x03 c) ^^^ mul 0x0D (mul 0x02 c) ^^^ mul 0x09 c) ^^^
        (mul 0x0E d ^^^ mul 0x0B d ^^^ mul 0x0D (mul 0x03 d) ^^^ mul 0x09 (mul 0x02 d)) := by ac_rfl
    _ = a := by rw [ha, hb, hc, hd]; simp

theorem invMixColumns_mixColumns (x : Block) : invMixColumns (mixColumns x) = x :=
  block_ext fun r c => by
    simp only [cell_invMixColumns, cell_mixColumns, Nat.add_assoc, Nat.reduceAdd, cell_add_four x r c,
      show cell x (r + 5) c = cell x (r + 1) c from cell_add_four x (r + 1) c,
      show cell x (r + 6) c = cell x (r + 2) c from cell_add_four x (r + 2) c]
    exact invMixRow_mixColumn ..

theorem addKey_addKey (x k : Block) : addKey (addKey x k) k = x :=
  block_ext fun r c => by
    rw [cell_addKey, cell_addKey, BitVec.xor_assoc, BitVec.xor_self, BitVec.xor_zero]

theorem invSubBytes_invShiftRows (x : Block) : invSubBytes (invShiftRows x) = invShiftRows (invSubBytes x) :=
  block_ext fun r c => by simp

/-- InvMixColumns passes over AddRoundKey. -/
theorem invMixColumns_addKey (x k : Block) : invMixColumns (addKey x k) = addKey (invMixColumns x) (invMixColumns k) :=
  block_ext fun r c => by
    simp only [cell_invMixColumns, cell_addKey, mul_xor]
    ac_rfl

end Sys2Proof.Fips197
end

section
/-! PROOFS. The T-table rounds are the FIPS-197 rounds (O40), and the word primitives (O37). -/

namespace Sys2Proof.Machine

open Sys2Proof.Fips197

/-! ### Columns of table entries -/

/-- One entry of each forward T-table makes the mixed column of four S-box bytes (41_aes.md R160). -/
theorem ft_column (a b c d : Byte) :
    ft 0 a ^^^ ft 1 b ^^^ ft 2 c ^^^ ft 3 d = mixColumn (sbox a) (sbox b) (sbox c) (sbox d) := by
  simp only [ft, ft0_eq, mixColumn, Nat.reduceMul, rotr32_zero, rotr32_wordOf_one, rotr32_wordOf_two, rotr32_wordOf_three,
    wordOf_xor]
  congr 1 <;> ac_rfl

/-- One entry of each inverse T-table makes the InvMixColumns column of four inverse S-box bytes (41_aes.md R163). -/
theorem rt_column (a b c d : Byte) :
    rt 0 a ^^^ rt 1 b ^^^ rt 2 c ^^^ rt 3 d = invMixColumn (invSbox a) (invSbox b) (invSbox c) (invSbox d) := by
  simp only [rt, rt0_eq, invMixColumn, Nat.reduceMul, rotr32_zero, rotr32_wordOf_one, rotr32_wordOf_two, rotr32_wordOf_three,
    wordOf_xor]
  congr 1 <;> ac_rfl

/-! ### The words of a round -/

section
variable (x k : Block) {c : Nat} (hc : c < 4)
include hc

theorem wordAt_addRoundKey : wordAt (addRoundKey x k) c = wordAt x c ^^^ wordAt k c := by
  interval_cases c <;> rfl

/-- The four words of FRound are one formula, with the columns counted mod 4 (41_aes.md R160). -/
theorem wordAt_fRound :
    wordAt (fRound x k) c =
      wordAt k c ^^^ ft 0 (cell x 0 c) ^^^ ft 1 (cell x 1 (c + 1)) ^^^ ft 2 (cell x 2 (c + 2)) ^^^ ft 3 (cell x 3 (c + 3)) := by
  interval_cases c <;> rfl

/-- The four words of RRound are one formula, with the columns counted mod 4 (41_aes.md R163). -/
theorem wordAt_rRound :
    wordAt (rRound x k) c =
      wordAt k c ^^^ rt 0 (cell x 0 c) ^^^ rt 1 (cell x 1 (c + 3)) ^^^ rt 2 (cell x 2 (c + 6)) ^^^ rt 3 (cell x 3 (c + 9)) := by
  interval_cases c <;> rfl

/-- The four words of FFinal are one formula (41_aes.md R161). -/
theorem wordAt_fFinal :
    wordAt (fFinal x k) c =
      wordAt k c ^^^
        wordOf (sbox (cell x 0 c)) (sbox (cell x 1 (c + 1))) (sbox (cell x 2 (c + 2))) (sbox (cell x 3 (c + 3))) := by
  interval_cases c <;> rfl

/-- The four words of RFinal are one formula (41_aes.md R164). -/
theorem wordAt_rFinal :
    wordAt (rFinal x k) c =
      wordAt k c ^^^
        wordOf (invSbox (cell x 0 c)) (invSbox (cell x 1 (c + 3))) (invSbox (cell x 2 (c + 6))) (invSbox (cell x 3 (c + 9))) := by
  interval_cases c <;> rfl

end

/-! ### The rounds -/

theorem addRoundKey_eq_addKey (x k : Block) : addRoundKey x k = addKey x k :=
  store_ext fun c hc => by rw [wordAt_addRoundKey x k hc, wordAt_addKey x hc]

theorem fRound_eq (x k : Block) : fRound x k = addKey (mixColumns (shiftRows (subBytes x))) k :=
  store_ext fun c hc => by
    rw [wordAt_fRound x k hc, wordAt_addKey _ hc, wordAt_mixColumns _ hc, BitVec.xor_comm _ (wordAt k c)]
    simp only [cell_shiftRows, cell_subBytes, ← ft_column, BitVec.xor_assoc, Nat.add_zero]

theorem fFinal_eq (x k : Block) : fFinal x k = addKey (shiftRows (subBytes x)) k :=
  store_ext fun c hc => by
    rw [wordAt_fFinal x k hc, wordAt_addKey _ hc, wordAt_shiftRows _ hc, BitVec.xor_comm]
    simp only [cell_subBytes]

theorem rRound_eq (x k : Block) : rRound x k = addKey (invMixColumns (invShiftRows (invSubBytes x))) k :=
  store_ext fun c hc => by
    rw [wordAt_rRound x k hc, wordAt_addKey _ hc, wordAt_invMixColumns_eq_invMixColumn _ hc, BitVec.xor_comm _ (wordAt k c)]
    simp only [cell_invShiftRows, cell_invSubBytes, ← rt_column, BitVec.xor_assoc, Nat.reduceMul, Nat.add_zero]

theorem rFinal_eq (x k : Block) : rFinal x k = addKey (invShiftRows (invSubBytes x)) k :=
  store_ext fun c hc => by
    rw [wordAt_rFinal x k hc, wordAt_addKey _ hc, wordAt_invShiftRows _ hc, BitVec.xor_comm]
    simp only [cell_invSubBytes]

/-- Settles O40: word by word, the table entries of a round make the column that the FIPS-197 round makes. -/
theorem tableRoundsAreFips197Rounds : Obligations.TableRoundsAreFips197Rounds :=
  fun x k => ⟨fRound_eq x k, fFinal_eq x k, rRound_eq x k, rFinal_eq x k⟩

/-! ### The word primitives -/

theorem subWord_wordOf (a b c d : Byte) : subWord (wordOf a b c d) = wordOf (sbox a) (sbox b) (sbox c) (sbox d) := by
  simp [subWord]

/-- Rotation left by one byte is rotation right by three. -/
theorem rotWord_wordOf (a b c d : Byte) : rotWord (wordOf a b c d) = wordOf b c d a := rotr32_wordOf_three a b c d

theorem subWord_rotWord (w : Word) : subWord (rotWord w) = rotWord (subWord w) := by
  rw [← wordOf_byteAt w, rotWord_wordOf, subWord_wordOf, subWord_wordOf, rotWord_wordOf]

/-- IMC is InvMixColumns of a column: the S-boxes of the kt tables cancel (41_aes.md R152). -/
theorem imc_eq_invMixColumn (w : Word) : imc w = invMixColumn (byteAt w 0) (byteAt w 1) (byteAt w 2) (byteAt w 3) := by
  simp only [imc, kt, rt_column, invSbox_sbox]

/-- InvMixColumns of a state is IMC of each word. -/
theorem wordAt_invMixColumns (x : Block) {c : Nat} (hc : c < 4) : wordAt (invMixColumns x) c = imc (wordAt x c) := by
  rw [wordAt_invMixColumns_eq_invMixColumn x hc, imc_eq_invMixColumn, cell_of_lt x (by decide) hc, cell_of_lt x (by decide) hc,
    cell_of_lt x (by decide) hc, cell_of_lt x (by decide) hc]

theorem wordAt_fourTimes (w : Word) {c : Nat} (hc : c < 4) : wordAt (#v[w, w, w, w] : Block) c = w := by
  interval_cases c <;> rfl

/-- Settles O37: SubWord and RotWord on the four bytes of a word, and IMC as InvMixColumns of four equal columns. -/
theorem wordPrimitives : Obligations.WordPrimitives :=
  ⟨subWord_wordOf, rotWord_wordOf, subWord_rotWord, fun w => ⟨rfl, store_ext fun c hc => by
    rw [wordAt_invMixColumns _ hc, wordAt_fourTimes w hc, wordAt_fourTimes (imc w) hc]⟩⟩

end Sys2Proof.Machine
end

section
/-! PROOFS. What the two cipher commands have in common, and that repeating one repeats its output (O30). -/

namespace Sys2Proof.Machine

/-- What AES_ENCRYPT and AES_DECRYPT have in common: DOUT gets a block made from the AES context and the input block. -/
def cipherCommand (f : AesContext → Block → Block) (s : State) : Result :=
  if s.aes.nr = .unkeyed then raise .uninitializedContext s else succeed (s.setDout (f s.aes s.snap.din))

theorem exec_aesEncrypt (s : State) : exec .aesEncrypt s = cipherCommand (fun a p => encryptBlock a.nr.num a.erk p) s := rfl

theorem exec_aesDecrypt (s : State) : exec .aesDecrypt s = cipherCommand (fun a c => decryptBlock a.nr.num a.drk c) s := rfl

section
variable (f : AesContext → Block → Block) {s t : State}

theorem cipherCommand_of_keyed (h : s.aes.nr ≠ .unkeyed) :
    cipherCommand f s = .next ((s.setDout (f s.aes s.snap.din)).finish .none) := if_neg h

theorem exec_aesEncrypt_of_keyed (h : s.aes.nr ≠ .unkeyed) :
    exec .aesEncrypt s = .next ((s.setDout (encryptBlock s.aes.nr.num s.aes.erk s.snap.din)).finish .none) :=
  (exec_aesEncrypt s).trans (cipherCommand_of_keyed _ h)

theorem exec_aesDecrypt_of_keyed (h : s.aes.nr ≠ .unkeyed) :
    exec .aesDecrypt s = .next ((s.setDout (decryptBlock s.aes.nr.num s.aes.drk s.snap.din)).finish .none) :=
  (exec_aesDecrypt s).trans (cipherCommand_of_keyed _ h)

theorem cipherCommand_of_unkeyed (h : s.aes.nr = .unkeyed) : cipherCommand f s = .next (s.finish .uninitializedContext) :=
  if_pos h

/-- A cipher command leaves the AES context, and from the same input block it gives the same DOUT again. -/
theorem cipherCommand_repeats (h : cipherCommand f s = .next t) :
    t.aes = s.aes ∧ ∀ sn : Snapshot, sn.din = s.snap.din →
      ∃ u, cipherCommand f { t with snap := sn } = .next u ∧ u.regs.dout = t.regs.dout := by
  by_cases hn : s.aes.nr = .unkeyed
  · rw [cipherCommand_of_unkeyed f hn] at h
    obtain rfl := Host.Outcome.next.inj h
    exact ⟨rfl, fun sn _ => ⟨_, cipherCommand_of_unkeyed f hn, rfl⟩⟩
  · rw [cipherCommand_of_keyed f hn] at h
    obtain rfl := Host.Outcome.next.inj h
    exact ⟨rfl, fun sn hdin => ⟨_, cipherCommand_of_keyed f hn, congrArg (f s.aes) hdin⟩⟩

end

/-- Settles O30, for both cipher commands at once. -/
theorem cipherCommandsKeepTheKeyAndRepeat : Obligations.CipherCommandsKeepTheKeyAndRepeat := by
  intro i s t hi h
  obtain ⟨f, hf⟩ : ∃ f, ∀ s, exec i s = cipherCommand f s := by
    rcases hi with rfl | rfl
    · exact ⟨_, exec_aesEncrypt⟩
    · exact ⟨_, exec_aesDecrypt⟩
  rw [hf] at h
  obtain ⟨haes, hrepeat⟩ := cipherCommand_repeats f h
  exact ⟨congrArg _ haes, congrArg _ haes, congrArg _ haes, fun sn hdin => hf _ ▸ hrepeat sn hdin⟩

end Sys2Proof.Machine
end

section
/-! PROOFS. AES_ENCRYPT is the FIPS-197 cipher (O41), and AES_DECRYPT its inverse (O42, O43): the equivalent inverse cipher of the
core is the straight inverse cipher, which undoes the cipher step by step. -/

namespace Sys2Proof.Fips197

open Sys2Proof.Machine

/-! ### The straight inverse cipher -/

/-- One inner round of `cipher`, which adds round key `r`. -/
def cipherRound (rk : RkStore) (r : Nat) (x : Block) : Block := addKey (mixColumns (shiftRows (subBytes x))) (roundKey rk r)

/-- The inverse transformations of an inner round, in the reverse order. -/
def invCipherRound (rk : RkStore) (r : Nat) (x : Block) : Block :=
  invSubBytes (invShiftRows (invMixColumns (addKey x (roundKey rk r))))

/-- The inverse cipher of FIPS-197 with the expanded key of `cipher`: its inverse transformations, from the last to the first. -/
def invCipher (n : Nat) (rk : RkStore) (c : Block) : Block :=
  addKey ((List.range' 1 (n - 1)).foldr (invCipherRound rk) (invSubBytes (invShiftRows (addKey c (roundKey rk n)))))
    (roundKey rk 0)

theorem cipher_eq (n : Nat) (rk : RkStore) (p : Block) :
    cipher n rk p =
      addKey (shiftRows (subBytes
        ((List.range' 1 (n - 1)).foldl (fun x r => cipherRound rk r x) (addKey p (roundKey rk 0))))) (roundKey rk n) := rfl

theorem invCipherRound_cipherRound (rk : RkStore) (r : Nat) (x : Block) : invCipherRound rk r (cipherRound rk r x) = x := by
  rw [invCipherRound, cipherRound, addKey_addKey, invMixColumns_mixColumns, invShiftRows_shiftRows, invSubBytes_subBytes]

/-- Steps undone one by one, the last first. -/
theorem foldr_foldl_cancel {α β : Type} {f g : α → β → β} (h : ∀ a x, g a (f a x) = x) (l : List α) (x : β) :
    l.foldr g (l.foldl (fun x a => f a x) x) = x := by
  induction l generalizing x with
  | nil => rfl
  | cons a l ih => rw [List.foldl_cons, List.foldr_cons, ih, h]

theorem invCipher_cipher (n : Nat) (rk : RkStore) (p : Block) : invCipher n rk (cipher n rk p) = p := by
  rw [invCipher, cipher_eq, addKey_addKey, invShiftRows_shiftRows, invSubBytes_subBytes,
    foldr_foldl_cancel (invCipherRound_cipherRound rk), addKey_addKey]

theorem finite_block : Finite Block :=
  Finite.of_injective (fun (x : Block) (i : Fin 4) => wordAt x i) fun _ _ h => store_ext fun i hi => congrFun h ⟨i, hi⟩

/-- The cipher undoes the inverse cipher too: being injective on the finitely many blocks, it meets every block. -/
theorem cipher_invCipher (n : Nat) (rk : RkStore) (c : Block) : cipher n rk (invCipher n rk c) = c := by
  have := finite_block
  have hinj : Function.Injective (cipher n rk) := Function.LeftInverse.injective (invCipher_cipher n rk)
  obtain ⟨p, rfl⟩ := Finite.surjective_of_injective hinj c
  rw [invCipher_cipher]

end Sys2Proof.Fips197

namespace Sys2Proof.Machine

open Sys2Proof.Fips197

/-- The T-table rounds of AES_ENCRYPT are the cipher, round by round. -/
theorem encryptBlock_eq_cipher (n : Nat) (erk : RkStore) (p : Block) : encryptBlock n erk p = cipher n erk p := by
  simp only [encryptBlock, cipher, fRound_eq, fFinal_eq, addRoundKey_eq_addKey]

/-! ### The round keys of the two schedules -/

theorem wordAt_roundKey (rk : RkStore) (r : Nat) {j : Nat} (hj : j < 4) : wordAt (roundKey rk r) j = wordAt rk (4 * r + j) := by
  interval_cases j <;> rfl

theorem decryptionWord_round (n : Nat) (erk : RkStore) (r : Nat) {j : Nat} (hj : j < 4) :
    decryptionWord n erk (4 * r + j) =
      if r = 0 ∨ r = n then wordAt erk (4 * (n - r) + j) else imc (wordAt erk (4 * (n - r) + j)) := by
  rw [decryptionWord, show (4 * r + j) / 4 = r by omega, show (4 * r + j) % 4 = j by omega]

section
variable {n : Nat} {erk drk : RkStore} (h : ∀ i < 4 * (n + 1), wordAt drk i = decryptionWord n erk i)
include h

/-- The outer round keys of the decryption schedule are the outer ones of the encryption schedule, exchanged. -/
theorem roundKey_outer {r : Nat} (hr : r = 0 ∨ r = n) : roundKey drk r = roundKey erk (n - r) :=
  store_ext fun j hj => by
    rw [wordAt_roundKey _ _ hj, wordAt_roundKey _ _ hj, h _ (by omega), decryptionWord_round _ _ _ hj, if_pos hr]

/-- The inner round keys of the decryption schedule are those of the encryption schedule in reverse, through InvMixColumns. -/
theorem roundKey_inner {r : Nat} (h0 : 0 < r) (hn : r < n) : roundKey drk r = invMixColumns (roundKey erk (n - r)) :=
  store_ext fun j hj => by
    rw [wordAt_roundKey _ _ hj, wordAt_invMixColumns _ hj, wordAt_roundKey _ _ hj, h _ (by omega), decryptionWord_round _ _ _ hj,
      if_neg (by omega)]

/-- An inner round of AES_DECRYPT is a round of the straight inverse cipher that begins and ends two transformations later. -/
theorem rRound_roundKey {r : Nat} (h0 : 0 < r) (hn : r < n) (x : Block) :
    rRound x (roundKey drk r) = invMixColumns (addKey (invSubBytes (invShiftRows x)) (roundKey erk (n - r))) := by
  rw [rRound_eq, roundKey_inner h h0 hn, ← invMixColumns_addKey, invSubBytes_invShiftRows]

end

/-! ### The equivalent inverse cipher -/

theorem map_sub_range' (n : Nat) : (List.range' 1 (n - 1)).map (n - ·) = (List.range' 1 (n - 1)).reverse := by
  rw [List.reverse_range', List.range'_eq_map_range, List.map_map]
  refine List.map_congr_left fun i _ => ?_
  show n - (1 + i) = 1 + (n - 1) - 1 - i
  omega

/-- Counting up with `n - r` is counting down with `r`. -/
theorem foldl_sub_eq_foldr {β : Type} (n : Nat) (g : Nat → β → β) (x : β) :
    (List.range' 1 (n - 1)).foldl (fun x r => g (n - r) x) x = (List.range' 1 (n - 1)).foldr g x := by
  rw [List.foldr_eq_foldl_reverse, ← map_sub_range', List.foldl_map]

/-- The equivalent inverse cipher of R165 is the straight inverse cipher: each inner round is one of the straight inverse cipher,
seen after InvShiftRows and InvSubBytes. -/
theorem decryptBlock_eq_invCipher {n : Nat} {erk drk : RkStore} (h : ∀ i < 4 * (n + 1), wordAt drk i = decryptionWord n erk i)
    (c : Block) : decryptBlock n drk c = invCipher n erk c := by
  have hrounds (x : Block) :
      (List.range' 1 (n - 1)).foldl (fun x r => rRound x (roundKey drk r)) x =
        (List.range' 1 (n - 1)).foldl
          (fun x r => invMixColumns (addKey (invSubBytes (invShiftRows x)) (roundKey erk (n - r)))) x :=
    List.foldl_ext _ _ _ fun y r hr => by
      rw [List.mem_range'_1] at hr
      exact rRound_roundKey h (by omega) (by omega) y
  rw [decryptBlock, hrounds, rFinal_eq, addRoundKey_eq_addKey, roundKey_outer h (.inl rfl), roundKey_outer h (.inr rfl),
    Nat.sub_zero, Nat.sub_self, ← invSubBytes_invShiftRows, invCipher, ← foldl_sub_eq_foldr]
  congr 1
  exact (List.foldl_hom (fun x => invSubBytes (invShiftRows x)) fun x r => rfl).symm

/-! ### The cipher commands -/

/-- Settles O41: the rounds of AES_ENCRYPT are those of the cipher. -/
theorem encryptComputesTheFips197Cipher : Obligations.EncryptComputesTheFips197Cipher := by
  intro s hkeyed
  rw [← encryptBlock_eq_cipher]
  exact exec_aesEncrypt_of_keyed hkeyed

/-- Settles O42: with the schedules of one key AES_DECRYPT is the straight inverse cipher, which the cipher undoes. -/
theorem decryptInvertsTheFips197Cipher : Obligations.DecryptInvertsTheFips197Cipher := by
  intro s hkeyed
  refine ⟨decryptBlock s.aes.nr.num s.aes.drk s.snap.din, exec_aesDecrypt_of_keyed hkeyed, fun ⟨_, hdrk⟩ => ?_⟩
  rw [decryptBlock_eq_invCipher hdrk, cipher_invCipher]

/-! ### A key set up, then both ciphers -/

theorem keyLengthOk_iff (keybytes bitlen : Nat) :
    keyLengthOk keybytes bitlen = true ↔ (bitlen = 128 ∨ bitlen = 192 ∨ bitlen = 256) ∧ keybytes = bitlen / 8 := by
  simp [keyLengthOk, or_assoc]

theorem nr_ne_unkeyed_iff (n : Rounds) : n ≠ .unkeyed ↔ 0 < n.num := by
  cases n <;> simp [Rounds.num]

theorem AesContext.nr_rekeyed_ne_unkeyed (a : AesContext) {nk : Nat} (sn : Snapshot) (h : nk = 4 ∨ nk = 6 ∨ nk = 8) :
    (a.rekeyed nk sn).nr ≠ .unkeyed := by
  rw [nr_ne_unkeyed_iff, AesContext.rekeyed, num_roundsOf h]
  exact Nat.succ_pos _

/-- The decryption schedule of one key undoes the cipher of its encryption schedule. -/
theorem decryptBlock_encryptBlock {a : AesContext} (h : a.scheduled) (p : Block) :
    decryptBlock a.nr.num a.drk (encryptBlock a.nr.num a.erk p) = p := by
  obtain ⟨-, hdrk⟩ := h
  rw [decryptBlock_eq_invCipher hdrk, encryptBlock_eq_cipher, invCipher_cipher]

/-- Settles O43: AES_KEYSETUP leaves the schedules of one key, both ciphers run on them, and the second undoes the first. -/
theorem decryptUndoesEncrypt : Obligations.DecryptUndoesEncrypt := by
  intro s bitlen p hlen
  have hok : keyLengthOk (bitlen / 8) bitlen = true := (keyLengthOk_iff _ _).mpr ⟨hlen, rfl⟩
  have hnk := keyWords_of_keyLengthOk hok
  have hkeyed := s.aes.nr_rekeyed_ne_unkeyed s.snap hnk
  refine ⟨_, _, _, execAesKeysetup_of_keyLengthOk hok, exec_aesEncrypt_of_keyed hkeyed, exec_aesDecrypt_of_keyed hkeyed, rfl,
    ?_⟩
  exact decryptBlock_encryptBlock (s.aes.scheduled_rekeyed s.snap hnk) p

end Sys2Proof.Machine
end

section
/-! PROOFS. AES_KEYSETUP (O38, O39) and AES_RKREAD (O44). -/

namespace Sys2Proof.Machine

/-! ### AES_KEYSETUP -/

/-- The loop of ExpandKey leaves the words above its last index. -/
theorem wordAt_expandLoop_of_ge {nk a m j : Nat} (erk : RkStore) (h : a + m ≤ j) :
    wordAt ((List.range' a m).foldl (expandStep nk) erk) j = wordAt erk j := by
  induction m with
  | zero => rfl
  | succ m ih =>
    rw [List.range'_1_concat, List.foldl_append, List.foldl_cons, List.foldl_nil, expandStep, wordAt_setIfInBounds,
      if_neg (by omega), ih (by omega)]

/-- ExpandKey leaves the words above the schedule (41_aes.md R158). -/
theorem wordAt_expandKey_above {nk n i : Nat} (sn : Snapshot) (erk : RkStore) (hk : nk ≤ 4 * (n + 1)) (hn : 4 * (n + 1) ≤ 60)
    (hi : 4 * (n + 1) ≤ i) : wordAt (expandKey nk n sn erk) i = wordAt erk i := by
  rw [expandKey, wordAt_expandLoop_of_ge _ (by omega), wordAt_loadKey _ _ _ _ (by omega), if_neg (by omega)]

theorem wordAt_of_ge {n i : Nat} (v : Vector Word n) (h : n ≤ i) : wordAt v i = 0 := by
  simp [wordAt, h]

/-- DeriveDecryptionKeys leaves the words above the schedule (41_aes.md R158). -/
theorem wordAt_deriveDecryptionKeys_above {n i : Nat} (erk drk : RkStore) (hi : 4 * (n + 1) ≤ i) :
    wordAt (deriveDecryptionKeys n erk drk) i = wordAt drk i := by
  rw [deriveDecryptionKeys, wordAt_ofFn]
  split
  next => exact if_neg (Nat.not_lt.mpr hi)
  next h => exact (wordAt_of_ge drk (Nat.le_of_not_lt h)).symm

/-- Settles O38: the context is `rekeyed`, whose words are those of ExpandKey and DeriveDecryptionKeys. -/
theorem keysetupExpandsTheKey : Obligations.KeysetupExpandsTheKey := by
  intro s nk n hsize
  have hnk : nk = 4 ∨ nk = 6 ∨ nk = 8 := by omega
  obtain rfl : n = nk + 6 := by omega
  clear hsize
  have hok : keyLengthOk (4 * nk) (32 * nk) = true := (keyLengthOk_iff _ _).mpr (by omega)
  have hexec := execAesKeysetup_of_keyLengthOk (s := s) hok
  rw [Nat.mul_div_cancel_left nk (by decide)] at hexec
  have hdrk {i : Nat} (hi : i < 4 * (nk + 6 + 1)) :
      wordAt (s.aes.rekeyed nk s.snap).drk i = decryptionWord (nk + 6) (s.aes.rekeyed nk s.snap).erk i :=
    wordAt_deriveDecryptionKeys _ _ (by omega) hi
  refine ⟨s.aes.rekeyed nk s.snap, hexec, num_roundsOf hnk, fun i hi => ?_, fun i hki hi => ?_, fun j hj => ⟨?_, ?_⟩,
    fun r j hr hrn hj => ?_, fun i hi => ⟨?_, ?_⟩⟩
  · exact wordAt_expandKey_key _ _ (by omega) hi
  · exact wordAt_expandKey_step _ _ (by omega) (by omega) hki hi
  · have hfirst := decryptionWord_round (nk + 6) (s.aes.rekeyed nk s.snap).erk 0 hj
    rw [Nat.mul_zero, Nat.zero_add, if_pos (.inl rfl)] at hfirst
    rw [hdrk (by omega), hfirst, Nat.sub_zero]
  · rw [hdrk (by omega), decryptionWord_round _ _ _ hj, if_pos (.inr rfl), Nat.sub_self, Nat.mul_zero, Nat.zero_add]
  · rw [hdrk (by omega), decryptionWord_round _ _ _ hj, if_neg (by omega)]
  · exact wordAt_expandKey_above _ _ (by omega) (by omega) hi
  · exact wordAt_deriveDecryptionKeys_above _ _ hi

theorem execAesKeysetup_of_refused {keybytes bitlen : Nat} (s : State) (h : keyLengthOk keybytes bitlen ≠ true) :
    execAesKeysetup keybytes bitlen s = .next ((s.setAes { s.aes with nr := .unkeyed }).finish .invalidKeyLength) :=
  if_neg h

theorem writeReg_aes (s : State) (off : Nat) (v : Word) : (writeReg s off v).aes = s.aes := by
  rcases writeReg_cases s off v with ⟨-, -, hw⟩ | ⟨-, -, hw⟩ | ⟨-, hw⟩ | ⟨-, hw⟩ | ⟨-, hw⟩ | ⟨-, hw⟩ | ⟨-, hw⟩ |
    ⟨-, -, -, -, hw⟩ <;> rw [hw] <;> rfl

theorem access_aes (s : State) (a : BusAccess) : (s.access a).aes = s.aes := by
  rcases access_cases s a with ⟨-, ha⟩ | ⟨-, -, ha⟩ | ⟨v, -, -, ha⟩ <;> rw [ha]
  · rfl
  · rfl
  · exact writeReg_aes s _ v

section
variable {s t : State} (hs : s.aes.nr = .unkeyed) (ht : t.aes.nr ≠ .unkeyed)
include hs ht

/-- The only command that keys an unkeyed core is an AES_KEYSETUP with a good length. -/
theorem keysetup_of_exec_keys {i : Instr} (h : exec i s = .next t) :
    ∃ keybytes bitlen, i = .aesKeysetup keybytes bitlen ∧ keyLengthOk keybytes bitlen = true := by
  by_cases hi : ∃ keybytes bitlen, i = .aesKeysetup keybytes bitlen
  · obtain ⟨keybytes, bitlen, rfl⟩ := hi
    rcases execAesKeysetup_cases h with ⟨-, rfl⟩ | ⟨hok, -⟩
    · exact (ht rfl).elim
    · exact ⟨keybytes, bitlen, rfl, hok⟩
  · obtain ⟨-, -, -, haes, -⟩ := onlyNamedCommandsWriteOutputsAndContexts i s t h
    rw [haes fun a b hab => hi ⟨a, b, hab⟩] at ht
    exact (ht hs).elim

/-- The only slot of the core that keys an unkeyed one is the completion of an AES_KEYSETUP with a good length. -/
theorem keysetup_of_internalStep_keys (h : internalStep s = .next t) :
    ∃ keybytes bitlen, decode s.pending = .ok (.aesKeysetup keybytes bitlen) ∧ keyLengthOk keybytes bitlen = true := by
  rcases internalStep_cases h with ⟨-, rfl⟩ | ⟨-, -, hc⟩ | ⟨-, -, rfl⟩
  · exact (ht hs).elim
  · rcases complete_cases hc with ⟨i, hdecode, hi⟩ | ⟨-, rfl⟩
    · obtain ⟨keybytes, bitlen, rfl, hok⟩ := keysetup_of_exec_keys hs ht hi
      exact ⟨keybytes, bitlen, hdecode, hok⟩
    · exact (ht hs).elim
  · exact (ht hs).elim

/-- The only step that keys an unkeyed core is the completion of an AES_KEYSETUP with a good length. -/
theorem keysetup_of_step_keys (h : step s = .next t) :
    ∃ keybytes bitlen, decode s.pending = .ok (.aesKeysetup keybytes bitlen) ∧ keyLengthOk keybytes bitlen = true := by
  rcases step_cases h with ⟨-, hi⟩ | ⟨es, -, hi⟩ | ⟨es, -, rfl⟩ | ⟨a, es, -, rfl⟩
  · exact keysetup_of_internalStep_keys hs ht hi
  · exact keysetup_of_internalStep_keys (s := s.withInputs es) hs ht hi
  · exact (ht rfl).elim
  · rw [access_aes] at ht
    exact (ht hs).elim

end

/-- Settles O39: a refused AES_KEYSETUP, the AES commands on an unkeyed core, and the one step that keys it. -/
theorem refusedKeysetupUnkeysTheCore : Obligations.RefusedKeysetupUnkeysTheCore := by
  refine ⟨fun s keybytes bitlen hbad => ?_, fun s i hs hi => ?_, fun s t hs h ht => ?_⟩
  · exact execAesKeysetup_of_refused s (mt (keyLengthOk_iff _ _).mp hbad)
  · refine ⟨s.finish .uninitializedContext, ?_, rfl, rfl⟩
    rcases hi with rfl | rfl | ⟨sched, index, rfl⟩ <;> exact if_pos hs
  · obtain ⟨keybytes, bitlen, hdecode, hok⟩ := keysetup_of_step_keys hs ht h
    exact ⟨keybytes, bitlen, hdecode, (keyLengthOk_iff _ _).mp hok⟩

/-! ### AES_RKREAD -/

theorem execAesRkread_of_inRange {sched index : Nat} {s : State} (hkeyed : s.aes.nr ≠ .unkeyed) (hsched : sched ≤ 1)
    (hindex : index < 4 * (s.aes.nr.num + 1)) :
    execAesRkread sched index s =
      .next ((s.setRdata (wordAt (if sched = 0 then s.aes.erk else s.aes.drk) index)).finish .none) := by
  rw [execAesRkread, if_neg hkeyed, if_neg (by omega), if_neg (by omega), succeed_eq]

theorem num_le_fourteen (n : Rounds) : n.num ≤ 14 := by
  cases n <;> decide

/-- Settles O44: the index is below the schedule's end, so it names a word of the store. -/
theorem rkreadReturnsTheRoundKeyWord : Obligations.RkreadReturnsTheRoundKeyWord := by
  intro s sched index hkeyed hsched hindex
  have hstore : index < Config.rkWords := by have := num_le_fourteen s.aes.nr; simp only [Config.rkWords]; omega
  have hget (rk : RkStore) : rk[index]? = some (wordAt rk index) := by
    rw [wordAt_eq_getElem rk hstore, Vector.getElem?_eq_getElem hstore]
  exact ⟨_, execAesRkread_of_inRange hkeyed hsched hindex, fun h => by rw [if_pos h, hget],
    fun h => by rw [if_neg (by omega), hget]⟩

end Sys2Proof.Machine
end

section
/-! PROOFS. The word functions (O45), the message schedule (O46) and the rounds of the compression function (O60). -/

namespace Sys2Proof.Machine

/-- Settles O45: each rotation in the word functions is by fewer than 32 places. -/
theorem shaWordFunctions : Obligations.ShaWordFunctions := by
  intro x y z
  have hrot (n : Nat) (hn : n < 32) : rotr32 x n = x.rotateRight n := rotr32_eq_rotateRight x n hn
  refine ⟨?_, ?_, ?_, ?_, rfl, rfl⟩
  · rw [smallSigma0, hrot 7 (by decide), hrot 18 (by decide), shr]
  · rw [smallSigma1, hrot 17 (by decide), hrot 19 (by decide), shr]
  · rw [bigSigma0, hrot 2 (by decide), hrot 13 (by decide), hrot 22 (by decide)]
  · rw [bigSigma1, hrot 6 (by decide), hrot 11 (by decide), hrot 25 (by decide)]

/-! ### The message schedule -/

/-- The message schedule after `n` turns of its second loop. -/
def scheduleAfter (m : List Byte) (n : Nat) : List Word := (List.range' 16 n).foldl scheduleStep (blockWords m)

theorem messageSchedule_eq (m : List Byte) : messageSchedule m = scheduleAfter m 48 := rfl

theorem scheduleAfter_succ (m : List Byte) (n : Nat) :
    scheduleAfter m (n + 1) = scheduleStep (scheduleAfter m n) (16 + n) := by
  rw [scheduleAfter, List.range'_1_concat, List.foldl_append, List.foldl_cons, List.foldl_nil, scheduleAfter]

@[simp] theorem length_blockWords (m : List Byte) : (blockWords m).length = 16 := by
  rw [blockWords, List.length_map, List.length_range]

@[simp] theorem length_scheduleAfter (m : List Byte) (n : Nat) : (scheduleAfter m n).length = 16 + n := by
  induction n with
  | zero => exact length_blockWords m
  | succ n ih => rw [scheduleAfter_succ, scheduleStep, List.length_append, ih, List.length_singleton, Nat.add_assoc]

/-- A turn of the loop adds a word and keeps those before it. -/
theorem getElem?_scheduleStep_of_lt {w : List Word} {i : Nat} (t : Nat) (h : i < w.length) :
    (scheduleStep w t)[i]? = w[i]? :=
  List.getElem?_append_left h

/-- A word of the schedule stays once it is made. -/
theorem getElem?_scheduleAfter_add (m : List Byte) {i n : Nat} (k : Nat) (h : i < 16 + n) :
    (scheduleAfter m (n + k))[i]? = (scheduleAfter m n)[i]? := by
  induction k with
  | zero => rfl
  | succ k ih =>
    rw [← Nat.add_assoc, scheduleAfter_succ, getElem?_scheduleStep_of_lt _ (by rw [length_scheduleAfter]; omega), ih]

theorem getElem?_messageSchedule (m : List Byte) {i n : Nat} (hn : n ≤ 48) (h : i < 16 + n) :
    (messageSchedule m)[i]? = (scheduleAfter m n)[i]? := by
  obtain ⟨k, hk⟩ := Nat.exists_eq_add_of_le hn
  rw [messageSchedule_eq, hk, getElem?_scheduleAfter_add m k h]

theorem getD_messageSchedule (m : List Byte) {i n : Nat} (hn : n ≤ 48) (h : i < 16 + n) :
    (messageSchedule m).getD i 0 = (scheduleAfter m n).getD i 0 := by
  rw [List.getD_eq_getElem?_getD, getElem?_messageSchedule m hn h, ← List.getD_eq_getElem?_getD]

/-- The word that a turn of the loop adds. -/
theorem getD_scheduleStep_length (w : List Word) :
    (scheduleStep w w.length).getD w.length 0 =
      smallSigma1 (w.getD (w.length - 2) 0) + w.getD (w.length - 7) 0 + smallSigma0 (w.getD (w.length - 15) 0) +
        w.getD (w.length - 16) 0 := by
  rw [scheduleStep, List.getD_eq_getElem?_getD, List.getElem?_concat_length, Option.getD_some]

theorem getElem?_blockWords {m : List Byte} (hm : m.length = 64) {t : Nat} (ht : t < 16) :
    (blockWords m)[t]? = some (wordOf m[4 * t] m[4 * t + 1] m[4 * t + 2] m[4 * t + 3]) := by
  have hget (i : Nat) (hi : i < 64) : m.getD i 0 = m[i] := (List.getElem_eq_getD 0).symm
  rw [blockWords, List.getElem?_map, List.getElem?_range ht, Option.map_some, hget _ (by omega), hget _ (by omega),
    hget _ (by omega), hget _ (by omega)]

/-- Settles O46: the first words are those of the block, and word `16 + n` is added in turn `n` of the loop, where the words before
it are the schedule's own. -/
theorem messageScheduleRecurrence : Obligations.MessageScheduleRecurrence := by
  intro m hm
  refine ⟨length_scheduleAfter m 48, fun t ht => ?_, fun t h16 ht => ?_⟩
  · refine ⟨m[4 * t], m[4 * t + 1], m[4 * t + 2], m[4 * t + 3], List.getElem?_eq_getElem _, List.getElem?_eq_getElem _,
      List.getElem?_eq_getElem _, List.getElem?_eq_getElem _, ?_⟩
    rw [getElem?_messageSchedule m (Nat.zero_le _) ht]
    exact getElem?_blockWords hm ht
  · obtain ⟨n, rfl⟩ := Nat.exists_eq_add_of_le h16
    have hstep := getD_scheduleStep_length (scheduleAfter m n)
    rw [length_scheduleAfter, ← scheduleAfter_succ] at hstep
    have hbefore {i : Nat} (hi : i < 16 + n) : (messageSchedule m).getD i 0 = (scheduleAfter m n).getD i 0 :=
      getD_messageSchedule m (by omega) hi
    rw [getD_messageSchedule m (n := n + 1) (by omega) (by omega), hstep, hbefore (by omega), hbefore (by omega),
      hbefore (by omega), hbefore (by omega)]

/-! ### The compression function -/

/-- The working variables after the first `t` rounds on block `m`. -/
def workingAfter (h : Vector Word 8) (m : List Byte) (t : Nat) : Working :=
  ((shaK.zip (messageSchedule m)).take t).foldl (fun v kw => shaRound v kw.1 kw.2)
    { a := h[0], b := h[1], c := h[2], d := h[3], e := h[4], f := h[5], g := h[6], h := h[7] }

theorem shaRounds_eq_workingAfter (h : Vector Word 8) (m : List Byte) : shaRounds h m = workingAfter h m 64 := by
  rw [workingAfter, List.take_of_length_le, shaRounds]
  rw [List.length_zip]
  exact Nat.min_le_left ..

/-- Round `t` takes constant `t` and schedule word `t`. -/
theorem workingAfter_succ (h : Vector Word 8) (m : List Byte) {t : Nat} (ht : t < 64) :
    workingAfter h m (t + 1) = shaRound (workingAfter h m t) (shaK.getD t 0) ((messageSchedule m).getD t 0) := by
  have hk : t < shaK.length := ht
  have hw : t < (messageSchedule m).length := ht.trans_eq (length_scheduleAfter m 48).symm
  have hkw : t < (shaK.zip (messageSchedule m)).length := by rw [List.length_zip]; exact lt_min hk hw
  rw [workingAfter, List.take_succ_eq_append_getElem hkw, List.foldl_append, List.foldl_cons, List.foldl_nil,
    List.getElem_zip, List.getElem_eq_getD 0, List.getElem_eq_getD 0, workingAfter]

/-- Settles O60: the constants by their cubes, and the working variables after each number of rounds as the traces. -/
theorem compressionRunsTheRounds : Obligations.CompressionRunsTheRounds := by
  refine ⟨⟨rfl, by decide +kernel⟩, fun h m _ => ?_⟩
  refine ⟨fun t => (workingAfter h m t).a, fun t => (workingAfter h m t).b, fun t => (workingAfter h m t).c,
    fun t => (workingAfter h m t).d, fun t => (workingAfter h m t).e, fun t => (workingAfter h m t).f,
    fun t => (workingAfter h m t).g, fun t => (workingAfter h m t).h, ?_, fun t ht => ⟨_, _, rfl, rfl, ?_⟩, ?_⟩
  · apply Vector.ext
    intro i hi
    interval_cases i <;> rfl
  · simp only [workingAfter_succ h m ht]
    exact ⟨rfl, rfl, rfl, rfl, rfl, rfl, rfl, rfl⟩
  · simp only [compress, shaRounds_eq_workingAfter]

end Sys2Proof.Machine
end

section
/-! SUPPORT. The padding of SHA_FINISH (42_sha256.md R210): the bytes behind the blocks already hashed are the last blocks of the
padded message. -/

namespace Sys2Proof.Sha256

open Sys2Proof.Machine

/-- The bytes `s` at the end of a message of `total` bytes, and the padding behind them. -/
def paddedTail (total : Nat) (s : List Byte) : List Byte :=
  s ++ [0x80] ++ List.replicate ((119 - s.length % 64) % 64) 0 ++ beBytes 8 (8 * total)

theorem padded_eq (m : List Byte) : padded m = paddedTail m.length m := rfl

@[simp] theorem length_beBytes (k n : Nat) : (beBytes k n).length = k := by
  rw [beBytes, List.length_map, List.length_range]

theorem length_paddedTail (total : Nat) (s : List Byte) :
    (paddedTail total s).length = s.length + 1 + (119 - s.length % 64) % 64 + 8 := by
  simp only [paddedTail, List.length_append, List.length_singleton, List.length_replicate, length_beBytes]

/-- The padded message without the whole blocks of the message is the tail of the message, padded. -/
theorem drop_padded {m : List Byte} {q : Nat} (hq : 64 * q ≤ m.length) :
    (padded m).drop (64 * q) = paddedTail m.length (m.drop (64 * q)) := by
  have hmod : (m.length - 64 * q) % 64 = m.length % 64 := Nat.sub_mul_mod hq
  simp only [padded, paddedTail, List.length_drop, hmod, List.append_assoc]
  exact List.drop_append_of_le_length hq

/-- One block is enough for the tail and its padding. -/
theorem padAndCompress_of_short (total : Nat) (h : Vector Word 8) {s : List Byte} (hs : s.length ≤ 55) :
    padAndCompress total h s = (absorbBlocks 1 h (paddedTail total s)).1 := by
  have hzeros : (119 - s.length % 64) % 64 = 56 - (s ++ [0x80]).length := by
    rw [List.length_append, List.length_singleton]
    omega
  have hlen : (paddedTail total s).length = 64 := by
    rw [length_paddedTail]
    omega
  rw [absorbBlocks, absorbBlocks, List.take_of_length_le hlen.le, padAndCompress,
    if_neg (by rw [List.length_append, List.length_singleton]; omega), paddedTail, hzeros]

/-- The tail and its padding take two blocks. -/
theorem padAndCompress_of_long (total : Nat) (h : Vector Word 8) {s : List Byte} (hs : 55 < s.length) (hlt : s.length < 64) :
    padAndCompress total h s = (absorbBlocks 2 h (paddedTail total s)).1 := by
  have hzeros : (119 - s.length % 64) % 64 = (64 - (s ++ [0x80]).length) + 56 := by
    rw [List.length_append, List.length_singleton]
    omega
  have hsplit : paddedTail total s =
      (s ++ [0x80] ++ List.replicate (64 - (s ++ [0x80]).length) 0) ++
        (List.replicate 56 0 ++ beBytes 8 (8 * total)) := by
    rw [paddedTail, hzeros, List.replicate_add]
    simp only [List.append_assoc]
  have hfirst : (s ++ [(0x80 : Byte)] ++ List.replicate (64 - (s ++ [0x80]).length) 0).length = 64 := by
    simp only [List.length_append, List.length_singleton, List.length_replicate]
    omega
  rw [absorbBlocks, absorbBlocks, absorbBlocks, hsplit, List.take_left' hfirst, List.drop_left' hfirst,
    List.take_of_length_le (by simp), padAndCompress,
    if_pos (by rw [List.length_append, List.length_singleton]; omega)]

/-- SHA_FINISH compresses the blocks of the padded tail. -/
theorem padAndCompress_eq_absorbBlocks (total : Nat) (h : Vector Word 8) {s : List Byte} (hs : s.length < 64) :
    padAndCompress total h s = (absorbBlocks ((paddedTail total s).length / 64) h (paddedTail total s)).1 := by
  have hlen := length_paddedTail total s
  by_cases hshort : s.length ≤ 55
  · rw [show (paddedTail total s).length / 64 = 1 by omega, padAndCompress_of_short total h hshort]
  · rw [show (paddedTail total s).length / 64 = 2 by omega, padAndCompress_of_long total h (by omega) hs]

/-- From the hash of the whole blocks and the tail behind them, SHA_FINISH gets to the digest. -/
theorem padAndCompress_eq_digest (m : List Byte) :
    padAndCompress m.length (hashBlocks (m.length / 64) m) (m.drop (64 * (m.length / 64))) = digest m := by
  have hq : 64 * (m.length / 64) ≤ m.length := Nat.mul_div_le _ _
  have hblocks : hashBlocks (m.length / 64) m = hashBlocks (m.length / 64) (padded m) := by
    simp only [padded, List.append_assoc]
    exact (hashBlocks_append _ hq).symm
  rw [padAndCompress_eq_absorbBlocks _ _ (by rw [List.length_drop]; omega), ← drop_padded hq, hblocks,
    absorbBlocks_hashBlocks, List.length_drop, Nat.sub_mul_div, digest,
    Nat.add_sub_cancel' (Nat.div_le_div_right (by rw [padded_eq, length_paddedTail]; omega))]

/-- SHA_FINISH on a context that holds a message computes its digest. -/
theorem Holds.padAndCompress_eq_digest {c : ShaContext} {m : List Byte} (h : Holds c m) :
    padAndCompress c.total.toNat c.h c.buffered = digest m := by
  rw [h.total, h.hash, h.tail, Sha256.padAndCompress_eq_digest]

end Sys2Proof.Sha256
end

section
/-! SUPPORT. What SHA_UPDATE and SHA_FINISH answer in each case of their rules (42_sha256.md R207, R208, R210). -/

namespace Sys2Proof.Machine

theorem not_started_iff (c : ShaContext) : c.started = false ↔ c.state = .unstarted ∨ c.state = .final := by
  cases h : c.state <;> simp [ShaContext.started, h]

variable {s : State} {len : Nat}

theorem execShaUpdate_of_not_started (len : Nat) (h : s.sha.started = false) :
    execShaUpdate len s = .next (s.finish .uninitializedContext) := by
  rw [execShaUpdate, h, if_pos (by rfl), raise_eq]

theorem execShaUpdate_of_long (h : s.sha.started = true) (hlen : 64 < len) :
    execShaUpdate len s = .next (s.finish .bufferLengthMismatch) := by
  rw [execShaUpdate, h, if_neg (by simp), if_pos hlen, raise_eq]

theorem execShaUpdate_of_overflow (h : s.sha.started = true) (hlen : len ≤ 64)
    (hmax : Config.shaMaxBytes < s.sha.total.toNat + len) :
    execShaUpdate len s = .next (s.finish .counterOverflow) := by
  rw [execShaUpdate, h, if_neg (by simp), if_neg (by omega), if_pos hmax, raise_eq]

theorem execShaUpdate_zero (h : s.sha.started = true) (hmax : s.sha.total.toNat ≤ Config.shaMaxBytes) :
    execShaUpdate 0 s = .next (s.finish .none) := by
  rw [execShaUpdate, h, if_neg (by simp), if_neg (by omega), if_neg (by omega), if_pos rfl, succeed_eq]

theorem execShaUpdate_of_fits (h : s.sha.started = true) (hpos : 0 < len) (hlen : len ≤ 64)
    (hmax : s.sha.total.toNat + len ≤ Config.shaMaxBytes) :
    execShaUpdate len s = .next ((s.setSha (s.sha.absorb (s.snap.message len))).finish .none) := by
  rw [execShaUpdate, h, if_neg (by simp), if_neg (by omega), if_neg (by omega), if_neg (by omega), succeed_eq]

theorem execShaFinish_of_not_started (h : s.sha.started = false) :
    execShaFinish s = .next (s.finish .uninitializedContext) := by
  rw [execShaFinish, h, if_pos (by rfl), raise_eq]

theorem execShaFinish_of_started (h : s.sha.started = true) :
    execShaFinish s =
      .next (((s.setSha
          { s.sha with
            h := padAndCompress s.sha.total.toNat s.sha.h s.sha.buffered
            count := 0
            state := .final }).setDigest
        (padAndCompress s.sha.total.toNat s.sha.h s.sha.buffered)).finish .none) := by
  rw [execShaFinish, h, if_neg (by simp), succeed_eq]

/-- The two words of the byte count make its value (10_state.md R37). -/
theorem total_eq_words (c : ShaContext) : c.totalHi.toNat * 2 ^ 32 + c.totalLo.toNat = c.total.toNat := by
  have hlt : c.total.toNat < 2 ^ 64 := c.total.isLt
  rw [ShaContext.totalHi, ShaContext.totalLo, BitVec.extractLsb'_toNat, BitVec.extractLsb'_toNat, Nat.shiftRight_eq_div_pow,
    Nat.shiftRight_zero]
  omega

end Sys2Proof.Machine
end

section
/-! PROOFS. The three SHA commands on the message that the context holds (O47, O48, O49, O50). -/

namespace Sys2Proof.Sha256

open Sys2Proof.Machine

/-- SHA_START leaves a context that holds the empty message. -/
theorem holds_start (buf : Vector Byte 64) :
    Holds { h := shaH0, total := 0, buf := buf, count := 0, state := .idle } [] where
  short := Nat.zero_le _
  total := rfl
  count := rfl
  hash := (hashBlocks_zero []).symm
  tail := List.take_zero
  state := rfl

/-- Settles O47: `holds_start`, with the shared updates of the state written out. -/
theorem shaStartHoldsTheEmptyMessage : Obligations.ShaStartHoldsTheEmptyMessage :=
  fun s => ⟨_, execShaStart_eq s, rfl, rfl, rfl, by simp [ShaContext.totalHi], rfl, rfl, holds_start _⟩

/-- Settles O48: `execShaUpdate_holds`, with the shared updates of the state written out. -/
theorem shaUpdateAbsorbsTheWindow : Obligations.ShaUpdateAbsorbsTheWindow :=
  fun _ _ _ h hlen hmax => execShaUpdate_holds h hlen hmax

/-- Settles O49: the padding's last blocks take the hash from the whole blocks of the message to its digest. -/
theorem shaFinishOutputsTheDigest : Obligations.ShaFinishOutputsTheDigest := by
  intro s m h
  have hexec := execShaFinish_of_started h.started
  rw [h.padAndCompress_eq_digest] at hexec
  exact ⟨_, hexec, rfl, rfl, rfl, rfl⟩

theorem updateBytes_cons (sn : Snapshot) (len : Nat) (us : List (Snapshot × Nat)) :
    updateBytes ((sn, len) :: us) = (if len ≤ 64 then sn.message len else []) ++ updateBytes us := rfl

/-- One SHA_UPDATE on a context that holds a message: within 64 bytes it puts them behind the message, and above it fails and the
context stays. -/
theorem exec_shaUpdate_holds {s : State} {m : List Byte} (sn : Snapshot) (len : Nat) (h : Holds s.sha m)
    (hmax : (m ++ if len ≤ 64 then sn.message len else []).length ≤ Config.shaMaxBytes) :
    ∃ t, exec (.shaUpdate len) { s with snap := sn } = .next t ∧
      Holds t.sha (m ++ if len ≤ 64 then sn.message len else []) := by
  by_cases hlen : len ≤ 64
  · rw [if_pos hlen] at hmax ⊢
    rw [List.length_append, length_message] at hmax
    obtain ⟨c, hexec, hc, -⟩ := execShaUpdate_holds (s := { s with snap := sn }) h hlen hmax
    exact ⟨_, hexec, hc⟩
  · rw [if_neg hlen, List.append_nil]
    exact ⟨_, execShaUpdate_of_long (s := { s with snap := sn }) h.started (by omega), h⟩

/-- Successive SHA_UPDATEs put the bytes of the successful ones behind the message held. -/
theorem updates_holds {us : List (Snapshot × Nat)} {s : State} {m : List Byte} (h : Holds s.sha m)
    (hmax : (m ++ updateBytes us).length ≤ Config.shaMaxBytes) :
    ∃ t, updates us s = .next t ∧ Holds t.sha (m ++ updateBytes us) := by
  induction us generalizing s m with
  | nil => exact ⟨s, rfl, by simpa [updateBytes] using h⟩
  | cons u us ih =>
    obtain ⟨sn, len⟩ := u
    rw [updateBytes_cons, ← List.append_assoc] at hmax ⊢
    obtain ⟨t, hexec, ht⟩ := exec_shaUpdate_holds sn len h (by rw [List.length_append] at hmax; omega)
    rw [updates, hexec]
    exact ih ht hmax

/-- Settles O50: SHA_START leaves the empty message, each SHA_UPDATE its bytes behind the message, and SHA_FINISH the digest. -/
theorem digestDependsOnlyOnTheBytes : Obligations.DigestDependsOnlyOnTheBytes := by
  intro s us hmax
  obtain ⟨a, hstart, ha⟩ : ∃ a, exec .shaStart s = .next a ∧ Holds a.sha [] := ⟨_, execShaStart_eq s, holds_start _⟩
  obtain ⟨b, hupdates, hb⟩ := updates_holds ha hmax
  obtain ⟨c, hfinish, hdigest, -⟩ := shaFinishOutputsTheDigest b _ hb
  exact ⟨a, b, _, hstart, hupdates, hfinish, rfl, rfl, hdigest⟩

end Sys2Proof.Sha256
end

section
/-! PROOFS. The states of the SHA-256 context (O51) and its byte counter (O52). -/

namespace Sys2Proof.Machine

/-- A SHA_UPDATE of some bytes that is not too long: it absorbs them, or the counter would overflow. -/
theorem exec_shaUpdate_transition {s : State} {len : Nat} (h : s.sha.started = true) (hpos : 0 < len) (hlen : len ≤ 64) :
    ∃ t, exec (.shaUpdate len) s = .next t ∧
      if s.sha.total.toNat + len ≤ 2 ^ 61 - 1 then t.sha.state = .accum ∧ t.status.err = .none
      else t.sha = s.sha ∧ t.status.err = .counterOverflow := by
  by_cases hmax : s.sha.total.toNat + len ≤ 2 ^ 61 - 1
  · exact ⟨_, execShaUpdate_of_fits h hpos hlen hmax, by rw [if_pos hmax]; exact ⟨rfl, rfl⟩⟩
  · exact ⟨_, execShaUpdate_of_overflow h hlen (Nat.lt_of_not_le hmax), by rw [if_neg hmax]; exact ⟨rfl, rfl⟩⟩

/-- In IDLE the byte count is 0, so no update of at most 64 bytes fails. -/
theorem exec_shaUpdate_of_idle {s : State} {len : Nat} (hidle : s.sha.state = .idle) (hcons : s.sha.consistent)
    (hlen : len ≤ 64) : ∃ t, exec (.shaUpdate len) s = .next t ∧ t.status.err = .none := by
  have hs : s.sha.started = true := s.sha.started_iff.mpr (.inl hidle)
  obtain ⟨-, -, hzero, -⟩ := hcons
  have htotal : s.sha.total.toNat = 0 := by simp [hzero hidle]
  have hmax : s.sha.total.toNat + len ≤ Config.shaMaxBytes := by rw [htotal, Config.shaMaxBytes]; omega
  rcases Nat.eq_zero_or_pos len with rfl | hpos
  · exact ⟨_, execShaUpdate_zero hs hmax, rfl⟩
  · exact ⟨_, execShaUpdate_of_fits hs hpos hlen hmax, rfl⟩

/-- Settles O51, by whether the context is started. -/
theorem shaStateTransitions : Obligations.ShaStateTransitions := by
  intro s
  refine ⟨⟨_, execShaStart_eq s, rfl, rfl⟩, fun h => ?_, fun h => ?_, fun hidle hcons len hlen => ?_⟩
  · have hs : s.sha.started = false := (not_started_iff s.sha).mpr h
    exact ⟨fun len => ⟨_, execShaUpdate_of_not_started len hs, rfl, rfl⟩, _, execShaFinish_of_not_started hs, rfl, rfl⟩
  · have hs : s.sha.started = true := s.sha.started_iff.mpr h
    exact ⟨⟨_, execShaFinish_of_started hs, rfl, rfl⟩, fun hmax => ⟨_, execShaUpdate_zero hs hmax, rfl, rfl⟩,
      fun _ hpos hlen => exec_shaUpdate_transition hs hpos hlen, fun _ hlen => ⟨_, execShaUpdate_of_long hs hlen, rfl, rfl⟩⟩
  · exact exec_shaUpdate_of_idle hidle hcons hlen

/-- A SHA_UPDATE that answers without an error adds its length to the byte count, within the limit. -/
theorem toNat_total_of_execShaUpdate {s t : State} {len : Nat} (h : execShaUpdate len s = .next t)
    (herr : t.status.err = .none) :
    t.sha.total.toNat = s.sha.total.toNat + len ∧ s.sha.total.toNat + len ≤ Config.shaMaxBytes := by
  rcases execShaUpdate_cases h with ⟨-, rfl⟩ | ⟨-, -, rfl⟩ | ⟨-, -, -, rfl⟩ | ⟨-, rfl, hmax, rfl⟩ | ⟨-, -, -, hmax, rfl⟩
  · cases herr
  · cases herr
  · cases herr
  · exact ⟨rfl, hmax⟩
  · have htotal := ShaContext.toNat_absorb_total (c := s.sha) (d := s.snap.message len) (by rwa [length_message])
    rw [length_message] at htotal
    exact ⟨htotal, hmax⟩

/-- A SHA_UPDATE that fails leaves the context. -/
theorem sha_of_failed_execShaUpdate {s t : State} {len : Nat} (h : execShaUpdate len s = .next t)
    (herr : t.status.err ≠ .none) : t.sha = s.sha := by
  rcases execShaUpdate_cases h with ⟨-, rfl⟩ | ⟨-, -, rfl⟩ | ⟨-, -, -, rfl⟩ | ⟨-, -, -, rfl⟩ | ⟨-, -, -, -, rfl⟩
  · rfl
  · rfl
  · rfl
  · rfl
  · exact (herr rfl).elim

/-- Settles O52: the sum is within the limit where SHA_UPDATE succeeds, so no field wraps. -/
theorem lengthCounterNeverWraps : Obligations.LengthCounterNeverWraps := by
  refine ⟨fun s len hs hlen hmax => execShaUpdate_of_overflow (s.sha.started_iff.mpr hs) hlen hmax, fun s t len h =>
    ⟨fun herr => ?_, sha_of_failed_execShaUpdate h⟩⟩
  obtain ⟨htotal, hmax⟩ := toNat_total_of_execShaUpdate h herr
  rw [Config.shaMaxBytes] at hmax
  exact ⟨htotal, by omega, by omega, by rw [total_eq_words, total_eq_words, htotal]⟩

end Sys2Proof.Machine
end

section
/-! SUPPORT. The life of a command (43_control.md R240 to R249): what a completion keeps, what holds a pending command, and which
steps leave the outputs. -/

namespace Sys2Proof.Machine

/-! ### Completion -/

/-- `t` is the end of a command that was run in `s`, in all but the outputs, the contexts and ERR. -/
structure Completed (s t : State) : Prop where
  done : t.status.done = true
  busy : t.busy = false
  overrun : t.status.overrun = s.status.overrun
  ie : t.regs.ie = s.regs.ie
  key : t.regs.key = s.regs.key
  din : t.regs.din = s.regs.din
  msg : t.regs.msg = s.regs.msg
  tblReady : t.tblReady = s.tblReady
  pending : t.pending = s.pending
  snap : t.snap = s.snap
  inputs : t.inputs = s.inputs
  response : t.response = s.response

section
variable {s t : State}

theorem Completed.of_exec {i : Instr} (h : exec i s = .next t) : Completed s t := by
  obtain ⟨e, dout, digest, rdata, aes, sha, hexec⟩ := exec_forms i s
  obtain rfl := Host.Outcome.next.inj (hexec.symm.trans h)
  exact ⟨rfl, rfl, rfl, rfl, rfl, rfl, rfl, rfl, rfl, rfl, rfl, rfl⟩

theorem Completed.of_complete (h : complete s = .next t) : Completed s t := by
  rcases complete_cases h with ⟨i, -, hi⟩ | ⟨-, rfl⟩
  · exact .of_exec hi
  · exact ⟨rfl, rfl, rfl, rfl, rfl, rfl, rfl, rfl, rfl, rfl, rfl, rfl⟩

end

/-! ### Steps are total -/

theorem exec_total (i : Instr) (s : State) : ∃ t, exec i s = .next t := by
  obtain ⟨e, dout, digest, rdata, aes, sha, hexec⟩ := exec_forms i s
  exact ⟨_, hexec⟩

theorem complete_total (s : State) : ∃ t, complete s = .next t := by
  cases hdecode : decode s.pending with
  | ok i =>
    rw [complete_of_decode hdecode]
    exact exec_total i s
  | error e => exact ⟨_, by rw [complete, hdecode, execIllegal_eq]⟩

theorem internalStep_total (s : State) : ∃ t, internalStep s = .next t := by
  cases hr : s.tblReady with
  | false => exact ⟨_, internalStep_generator hr⟩
  | true =>
    cases hb : s.busy with
    | false => exact ⟨_, internalStep_stay hr hb⟩
    | true =>
      rw [internalStep_complete hr hb]
      exact complete_total s

theorem step_total (s : State) : ∃ t, step s = .next t := by
  cases hs : s.inputs with
  | nil =>
    rw [step_nil hs]
    exact internalStep_total s
  | cons e es =>
    cases e with
    | idle =>
      rw [step_idle hs]
      exact internalStep_total _
    | reset => exact ⟨_, step_reset hs⟩
    | access a => exact ⟨_, step_access hs⟩

/-! ### Slots of the core -/

/-- The next slot is the core's own: an idle one, or the host has no event to come. -/
def State.coreSlot (s : State) : Prop := s.inputs = [] ∨ s.inputs.head? = some .idle

theorem not_coreSlot_of_access {s : State} {a : BusAccess} {es : List PortEvent} (h : s.inputs = .access a :: es) :
    ¬s.coreSlot := by
  simp [State.coreSlot, h]

/-- Without a reset the step is the core's or one access. -/
theorem step_cases_of_no_reset {s t : State} (hreset : s.inputs.head? ≠ some .reset) (h : step s = .next t) :
    (s.coreSlot ∧ internalStep (s.withInputs s.inputs.tail) = .next t) ∨
      ∃ a es, s.inputs = .access a :: es ∧ t = (s.withInputs es).access a := by
  rcases step_cases h with ⟨hs, hi⟩ | ⟨es, hs, hi⟩ | ⟨es, hs, -⟩ | ⟨a, es, hs, rfl⟩
  · have hself : s.withInputs s.inputs.tail = s := by
      rw [hs, List.tail_nil, ← hs]
      rfl
    exact .inl ⟨.inl hs, hself.symm ▸ hi⟩
  · exact .inl ⟨.inr (by rw [hs, List.head?_cons]), by rwa [hs, List.tail_cons]⟩
  · exact absurd (by rw [hs, List.head?_cons]) hreset
  · exact .inr ⟨a, es, hs, rfl⟩

/-! ### Steps that leave the outputs -/

/-- What a completion alone may change: the contexts and the output registers of `t` are those of `s`. -/
structure OutputsKept (s t : State) : Prop where
  aes : t.aes = s.aes
  sha : t.sha = s.sha
  dout : t.regs.dout = s.regs.dout
  digest : t.regs.digest = s.regs.digest
  rdata : t.regs.rdata = s.regs.rdata

theorem OutputsKept.of_writeReg (s : State) (off : Nat) (v : Word) : OutputsKept s (writeReg s off v) := by
  rcases writeReg_cases s off v with ⟨-, -, hw⟩ | ⟨-, -, hw⟩ | ⟨-, hw⟩ | ⟨-, hw⟩ | ⟨-, hw⟩ | ⟨-, hw⟩ | ⟨-, hw⟩ |
    ⟨-, -, -, -, hw⟩ <;> rw [hw] <;> exact ⟨rfl, rfl, rfl, rfl, rfl⟩

theorem OutputsKept.of_access (s : State) (a : BusAccess) : OutputsKept s (s.access a) := by
  rcases access_cases s a with ⟨-, ha⟩ | ⟨-, -, ha⟩ | ⟨v, -, -, ha⟩ <;> rw [ha]
  · exact ⟨rfl, rfl, rfl, rfl, rfl⟩
  · exact ⟨rfl, rfl, rfl, rfl, rfl⟩
  · exact { OutputsKept.of_writeReg s a.off.toNat v with }

section
variable {s t : State}

/-- A slot of the core that completes no command. -/
theorem OutputsKept.of_internalStep (hkeep : s.busy = false ∨ t.busy = true) (h : internalStep s = .next t) :
    OutputsKept s t := by
  rcases internalStep_cases h with ⟨-, rfl⟩ | ⟨-, hb, hc⟩ | ⟨-, -, rfl⟩
  · exact ⟨rfl, rfl, rfl, rfl, rfl⟩
  · simp [hb, (Completed.of_complete hc).busy] at hkeep
  · exact ⟨rfl, rfl, rfl, rfl, rfl⟩

theorem OutputsKept.of_step (hreset : s.inputs.head? ≠ some .reset) (hkeep : s.busy = false ∨ t.busy = true)
    (h : step s = .next t) : OutputsKept s t := by
  rcases step_cases_of_no_reset hreset h with ⟨-, hi⟩ | ⟨a, es, -, rfl⟩
  · exact { OutputsKept.of_internalStep (by exact hkeep) hi with }
  · exact { OutputsKept.of_access (s.withInputs es) a with }

end

/-! ### A pending command -/

/-- The command pending in `s` is still pending in `t`, with its operands, the contexts and the outputs as they were. -/
structure Held (s t : State) : Prop extends OutputsKept s t where
  busy : t.busy = true
  pending : t.pending = s.pending
  snap : t.snap = s.snap

section
variable {s t u : State}

theorem Held.refl (hb : s.busy = true) : Held s s := ⟨⟨rfl, rfl, rfl, rfl, rfl⟩, hb, rfl, rfl⟩

theorem Held.trans (h : Held s t) (h' : Held t u) : Held s u where
  aes := h'.aes.trans h.aes
  sha := h'.sha.trans h.sha
  dout := h'.dout.trans h.dout
  digest := h'.digest.trans h.digest
  rdata := h'.rdata.trans h.rdata
  busy := h'.busy
  pending := h'.pending.trans h.pending
  snap := h'.snap.trans h.snap

theorem Held.tablesReady (hb : s.busy = true) (es : List PortEvent) : Held s (s.withInputs es).tablesReady :=
  { Held.refl hb with }

theorem Held.of_access (hb : s.busy = true) {a : BusAccess} {es : List PortEvent} (hs : s.inputs = .access a :: es) :
    Held s ((s.withInputs es).access a) := by
  obtain ⟨t, ht, hbusy, hpending, hsnap, -, -⟩ := hostAccessLeavesPendingCommand s a es hb hs
  obtain rfl := Host.Outcome.next.inj ((step_access hs).symm.trans ht)
  exact { OutputsKept.of_access (s.withInputs es) a with busy := hbusy, pending := hpending, snap := hsnap }

/-- Without a reset a pending command is held or completes. -/
theorem held_or_completed (hb : s.busy = true) (hreset : s.inputs.head? ≠ some .reset) (h : step s = .next t) :
    Held s t ∨ (t.busy = false ∧ t.status.done = true) := by
  rcases step_cases_of_no_reset hreset h with ⟨-, hi⟩ | ⟨a, es, hs, rfl⟩
  · rcases internalStep_cases hi with ⟨-, rfl⟩ | ⟨-, -, hc⟩ | ⟨-, hidle, -⟩
    · exact .inl (.tablesReady hb _)
    · exact .inr ⟨(Completed.of_complete hc).busy, (Completed.of_complete hc).done⟩
    · exact absurd (hb.symm.trans hidle) (by decide)
  · exact .inl (.of_access hb hs)

end

end Sys2Proof.Machine
end

section
/-! PROOFS. The life of a command: acceptance and dropped writes (O7, O8), the hold until the tables are ready (O9), completion (O5,
O12, O28), and NOP (O31). -/

namespace Sys2Proof.Machine

/-! ### Acceptance -/

/-- Settles O7. -/
theorem acceptanceTakesWordAndOperands : Obligations.AcceptanceTakesWordAndOperands :=
  ⟨fun _ _ _ hb hs => step_accept hb hs, fun _ hc => ⟨_, complete_of_illegalWord hc, rfl⟩⟩

/-! ### OVERRUN -/

/-- Only a STATUS write with a 1 in bit 2 lowers OVERRUN. -/
theorem clears_of_writeReg_overrun {s : State} {off : Nat} {v : Word} (hs : s.status.overrun = true)
    (ht : (writeReg s off v).status.overrun = false) : off = 0x04 ∧ v.getLsbD 2 = true := by
  rcases writeReg_cases s off v with ⟨-, -, hw⟩ | ⟨-, -, hw⟩ | ⟨hoff, hw⟩ | ⟨-, hw⟩ | ⟨-, hw⟩ | ⟨-, hw⟩ | ⟨-, hw⟩ |
    ⟨-, -, -, -, hw⟩ <;> rw [hw] at ht
  case inr.inr.inl => exact ⟨hoff, by simpa [hs] using ht⟩
  case inl => cases ht
  all_goals exact absurd (hs.symm.trans ht) (by decide)

/-- A served write, as the host actions name it. -/
theorem access_eq_hostWr {a : BusAccess} {v : Word} (hserved : a.served = true) (hop : a.op = .write v) :
    PortEvent.access a = hostWr a.off.toNat v := by
  have hwidth : a.width = 4 := ((served_iff a).mp hserved).1
  simp [hostWr, ← hop, ← hwidth]

theorem internalStep_overrun {s t : State} (h : internalStep s = .next t) : t.status.overrun = s.status.overrun := by
  rcases internalStep_cases h with ⟨-, rfl⟩ | ⟨-, -, hc⟩ | ⟨-, -, rfl⟩
  · rfl
  · exact (Completed.of_complete hc).overrun
  · rfl

/-- Settles O8: the write is dropped, and of the later steps only a STATUS write and a reset lower OVERRUN. -/
theorem cmdWriteWhileBusyIsDropped : Obligations.CmdWriteWhileBusyIsDropped := by
  refine ⟨fun s c es hb hs => ?_, fun s t hover h hlow => ?_⟩
  · rw [step_hostWr hs rfl (by decide), writeReg_cmd, offer_of_busy (by exact hb)]
    rfl
  · have hchanged : t.status.overrun ≠ s.status.overrun := by simp [hover, hlow]
    rcases step_cases h with ⟨-, hi⟩ | ⟨es, -, hi⟩ | ⟨es, hs, -⟩ | ⟨a, es, hs, rfl⟩
    · exact absurd (internalStep_overrun hi) hchanged
    · exact absurd (internalStep_overrun hi) hchanged
    · exact .inr ⟨es, hs⟩
    · rcases access_cases (s.withInputs es) a with ⟨-, ha⟩ | ⟨-, -, ha⟩ | ⟨v, hserved, hop, ha⟩
      · exact absurd (by rw [ha]; rfl) hchanged
      · exact absurd (by rw [ha]; rfl) hchanged
      · rw [ha] at hlow
        obtain ⟨hoff, hv⟩ := clears_of_writeReg_overrun (s := s.withInputs es) hover hlow
        exact .inl ⟨v, es, by rw [hs, access_eq_hostWr hserved hop, hoff], hv⟩

/-! ### The hold -/

/-- Settles O9: a slot of the core is the generator's, and an access leaves the pending command. -/
theorem pendingCommandIsHeldUntilTablesReady : Obligations.PendingCommandIsHeldUntilTablesReady := by
  intro s t hr hb hreset h
  have ⟨hheld, hslot⟩ : Held s t ∧ (s.coreSlot → t = (s.withInputs s.inputs.tail).tablesReady) := by
    rcases step_cases_of_no_reset hreset h with ⟨-, hi⟩ | ⟨a, es, hs, rfl⟩
    · obtain rfl := Host.Outcome.next.inj ((internalStep_generator (by exact hr)).symm.trans hi)
      exact ⟨.tablesReady hb _, fun _ => rfl⟩
    · exact ⟨.of_access hb hs, fun hslot => absurd hslot (not_coreSlot_of_access hs)⟩
  exact ⟨hheld.busy, hheld.pending, hheld.snap, hheld.aes, hheld.sha, hheld.dout, hheld.digest, hheld.rdata, hslot⟩

/-! ### Completion -/

/-- Settles O5: the slot is the core's, and its step is the complete step. -/
theorem stepRunsDecodedCommand : Obligations.StepRunsDecodedCommand := by
  intro s i hr hb hdecode
  refine ⟨fun hs => ?_, fun es hs => ?_⟩
  · rw [step_nil hs, internalStep_complete hr hb, complete_of_decode hdecode]
  · rw [step_idle hs, internalStep_complete (by exact hr) (by exact hb), complete_of_decode (by exact hdecode)]
    rfl

/-- Settles O28: `Completed`, field by field. -/
theorem completionKeepsTheHostSide : Obligations.CompletionKeepsTheHostSide := by
  intro i s t h
  obtain ⟨hdone, hbusy, hoverrun, hie, hkey, hdin, hmsg, htbl, hpending, hsnap, hinputs, hresponse⟩ := Completed.of_exec h
  exact ⟨hdone, hbusy, hoverrun, hie, hkey, hdin, hmsg, htbl, hpending, hsnap, hinputs, hresponse⟩

/-- The fields of STATUS that are views of the contexts: SHA_COUNT, NR, SHA_STATE and AES_KEYED. -/
theorem statusWord_live (s : State) :
    s.statusWord.extractLsb' 9 13 =
      (0#10 ++ s.sha.count ++ s.aes.nr.code ++ s.sha.state.code ++ BitVec.ofBool s.aes.keyed).extractLsb' 0 13 := by
  rw [statusWord_extract_fields s 6 13, statusFields_eq]
  iterate 3 rw [BitVec.extractLsb'_append_eq_of_le (by decide)]

theorem readReg_rdata (s : State) {off : Nat} (h : 0xB0 ≤ off) :
    readReg s off = if off = 0xB0 then s.regs.rdata else 0 := by
  unfold readReg
  iterate 9 rw [if_neg (by omega)]

/-- A read in the ranges of DOUT, DIGEST and RDATA sees those registers alone. -/
theorem readReg_outputs {s t : State} (h : OutputsKept s t) {off : Nat}
    (hoff : (0x40 ≤ off ∧ off < 0x50) ∨ (0x90 ≤ off ∧ off < 0xB4)) : readReg t off = readReg s off := by
  have hrange : (0x40 ≤ off ∧ off < 0x50) ∨ (0x90 ≤ off ∧ off < 0xB0) ∨ (0xB0 ≤ off ∧ off < 0xB4) := by omega
  rcases hrange with hr | hr | hr
  · rw [readReg_dout t hr, readReg_dout s hr, h.dout]
  · rw [readReg_digest t hr, readReg_digest s hr, h.digest]
  · rw [readReg_rdata t hr.1, readReg_rdata s hr.1, h.rdata]

/-- Settles O12: the step keeps the contexts and the output registers, and the reads look at nothing else. -/
theorem outputsChangeOnlyAtCompletion : Obligations.OutputsChangeOnlyAtCompletion := by
  intro s t h hreset hkeep
  have hout := OutputsKept.of_step hreset hkeep h
  have hlive : t.statusWord.extractLsb' 9 13 = s.statusWord.extractLsb' 9 13 := by
    rw [statusWord_live, statusWord_live, hout.aes, hout.sha]
  exact ⟨fun _ hoff => readReg_outputs hout hoff, hlive, hout.aes, hout.sha⟩

/-! ### NOP -/

/-- Settles O31: the two steps of the run are an acceptance and the completion of NOP. -/
theorem nopDoesNothingButComplete : Obligations.NopDoesNothingButComplete := by
  refine ⟨fun s => execNop_eq s, fun es => ?_⟩
  have haccept := step_accept (s := { State.reset with
    tblReady := true, inputs := (hostCmd (.command .nop)).event :: .idle :: es }) rfl rfl
  have hstatus : ({ State.reset with tblReady := true }.finish .none).statusWord = 0x00000102 := by decide
  have hdecode : decode (encode .nop) = .ok .nop := encodedCommandDecodesBack .nop rfl
  rw [runSteps_succ 1 haccept, runSteps_succ 0 ((stepRunsDecodedCommand _ .nop rfl rfl hdecode).2 es rfl)]
  exact ⟨_, rfl, hstatus⟩

end Sys2Proof.Machine
end

section
/-! PROOFS. Every accepted command completes (O11): from any busy state, and in every run of the host program `run M`. -/

namespace Sys2Proof.Machine

/-! ### A bound on the steps to a completion -/

/-- The command pending in `s` completes after at most `n` steps that hold it. -/
def CompletesWithin (n : Nat) (s : State) : Prop :=
  ∃ k u t, k ≤ n ∧ runSteps k s = .next u ∧ Held s u ∧ step u = .next t ∧ t.busy = false ∧ t.status.done = true

section
variable {s t : State}

theorem CompletesWithin.now (n : Nat) (hb : s.busy = true) (h : step s = .next t)
    (ht : t.busy = false ∧ t.status.done = true) : CompletesWithin n s :=
  ⟨0, s, t, Nat.zero_le n, rfl, .refl hb, h, ht⟩

theorem CompletesWithin.after {n : Nat} (h : step s = .next t) (hheld : Held s t) (ht : CompletesWithin n t) :
    CompletesWithin (n + 1) s := by
  obtain ⟨k, u, v, hk, hrun, hu, hv⟩ := ht
  exact ⟨k + 1, u, v, Nat.succ_le_succ hk, (runSteps_succ k h).trans hrun, hheld.trans hu, hv⟩

/-- With the tables ready and no event to come the next step completes. -/
theorem completesWithin_of_ready (n : Nat) (hr : s.tblReady = true) (hb : s.busy = true) (hs : s.inputs = []) :
    CompletesWithin n s := by
  obtain ⟨t, ht⟩ := complete_total s
  have hstep : step s = .next t := by rw [step_nil hs, internalStep_complete hr hb, ht]
  exact .now n hb hstep ⟨(Completed.of_complete ht).busy, (Completed.of_complete ht).done⟩

/-- By induction on the events to come: each is taken by a step that holds or completes the command, and after the last the core
needs one step for the tables at most. -/
theorem completesWithin_inputs (hb : s.busy = true) (hno : ∀ e ∈ s.inputs, e ≠ .reset) :
    CompletesWithin (s.inputs.length + 1) s := by
  induction hs : s.inputs generalizing s with
  | nil =>
    cases hr : s.tblReady with
    | true => exact completesWithin_of_ready _ hr hb hs
    | false =>
      have hstep : step s = .next s.tablesReady := by rw [step_nil hs, internalStep_generator hr]
      exact .after hstep (.tablesReady hb s.inputs) (completesWithin_of_ready 0 rfl hb hs)
  | cons e es ih =>
    obtain ⟨t, ht⟩ := step_total s
    have htail : t.inputs = es := by rw [step_inputs ht, hs, List.tail_cons]
    have hreset : s.inputs.head? ≠ some .reset := fun h => hno _ (List.mem_of_mem_head? h) rfl
    rcases held_or_completed hb hreset ht with hheld | hdone
    · refine .after ht hheld (ih hheld.busy (fun e' he => hno e' ?_) htail)
      rw [hs, ← htail]
      exact List.mem_cons_of_mem e he
    · exact .now _ hb ht hdone

end

/-! ### The host program `run M` -/

/-- Before its CMD write: nothing is pending, and OVERRUN is `ov`. -/
structure Ready (ov : Bool) (s : State) : Prop where
  busy : s.busy = false
  overrun : s.status.overrun = ov

/-- After it: the core holds the word `c`, pending or completed, and OVERRUN is still `ov`. -/
structure Running (ov : Bool) (c : Word) (s : State) : Prop where
  pending : s.pending = c
  overrun : s.status.overrun = ov
  live : s.busy = false → s.status.done = true

section
variable {ov : Bool} {c : Word} {s : State}

theorem Ready.keptByCore : KeptByCore (Ready ov) := by
  intro s t es h ht
  have hover := (internalStep_overrun ht).trans h.overrun
  rcases internalStep_cases ht with ⟨-, rfl⟩ | ⟨-, -, hc⟩ | ⟨-, -, rfl⟩
  · exact ⟨h.busy, hover⟩
  · exact ⟨(Completed.of_complete hc).busy, hover⟩
  · exact ⟨h.busy, hover⟩

theorem Ready.accept (h : Ready ov s) (c : Word) (es : List PortEvent) :
    Running ov c ((writeReg (s.withInputs es) 0x00 c).respond .ack) := by
  rw [writeReg_cmd, offer_of_not_busy (by exact h.busy)]
  exact ⟨rfl, h.overrun, nofun⟩

theorem Running.keptByCore : KeptByCore (Running ov c) := by
  intro s t es h ht
  have hover := (internalStep_overrun ht).trans h.overrun
  rcases internalStep_cases ht with ⟨-, rfl⟩ | ⟨-, -, hc⟩ | ⟨-, -, rfl⟩
  · exact ⟨h.pending, hover, h.live⟩
  · exact ⟨(Completed.of_complete hc).pending.trans h.pending, hover, fun _ => (Completed.of_complete hc).done⟩
  · exact ⟨h.pending, hover, h.live⟩

/-- After the `wait` the command has completed, and the slots of the core that follow change nothing of that. -/
theorem leads_hostRun (m : Mnemonic) (hs : Ready ov s) :
    Leads (hostRun m) (fun t => Running ov m.encode t ∧ Ready ov t) s := by
  have hend : KeptByCore fun t => Running ov m.encode t ∧ Ready ov t :=
    fun s t es h ht => ⟨Running.keptByCore s t es h.1 ht, Ready.keptByCore s t es h.2 ht⟩
  refine leads_wr Ready.keptByCore rfl (by decide) (fun s es hs => ?_) hs
  refine leads_wait Running.keptByCore (fun s es r h => { h with }) (fun s h hb => ?_) (hs.accept m.encode es)
  exact leads_nil hend ⟨h, hb, h.overrun⟩

end

/-- Settles O11: the bound by `completesWithin_inputs`, and every run of `run M` by the rules for host programs. -/
theorem acceptedCommandCompletes : Obligations.AcceptedCommandCompletes := by
  refine ⟨fun s hb hno => ?_, fun s m hb hplays => ?_⟩
  · obtain ⟨n, u, t, hn, hrun, hheld, hstep, ht⟩ := completesWithin_inputs hb hno
    exact ⟨n, u, t, hn, hrun, hheld.busy, hheld.pending, hheld.snap, hheld.aes, hheld.sha, hstep, ht⟩
  · obtain ⟨t, hrun, hinputs, hrunning, hready⟩ := leads_hostRun (ov := s.status.overrun) m ⟨hb, rfl⟩ hplays
    exact ⟨t, hrun, hinputs, hready.busy, hrunning.live hready.busy, hrunning.pending, hrunning.overrun⟩

end Sys2Proof.Machine
end

section
/-! PROOFS. How a command ends with an error: what it changes and with which codes (O24, O25), where (O26), and that every step
leads to a next state (O27). -/

namespace Sys2Proof.Machine

/-! ### Failed commands -/

/-- The errors of each command's row (60_exceptions.md R263). -/
def rowErrors : Instr → List ErrCode
  | .nop => []
  | .aesKeysetup _ _ => [.invalidKeyLength]
  | .aesEncrypt => [.uninitializedContext]
  | .aesDecrypt => [.uninitializedContext]
  | .aesRkread _ _ => [.uninitializedContext, .argumentRange]
  | .shaStart => []
  | .shaUpdate _ => [.uninitializedContext, .bufferLengthMismatch, .counterOverflow]
  | .shaFinish => [.uninitializedContext]
  | .tblRead _ _ => [.argumentRange]

/-- The state in which the command `i` fails with `e` (60_exceptions.md R262). -/
def State.failed (s : State) (i : Instr) (e : ErrCode) : State :=
  match i with
  | .aesKeysetup _ _ => (s.setAes { s.aes with nr := .unkeyed }).finish e
  | _ => s.finish e

theorem failed_of_ne_keysetup {i : Instr} (s : State) (e : ErrCode) (hi : ∀ keybytes bitlen, i ≠ .aesKeysetup keybytes bitlen) :
    s.failed i e = s.finish e := by
  unfold State.failed
  split
  · exact (hi _ _ rfl).elim
  · rfl

@[simp] theorem failed_err (s : State) (i : Instr) (e : ErrCode) : (s.failed i e).status.err = e := by
  unfold State.failed
  split <;> rfl

theorem illegalCommand_not_mem_rowErrors (i : Instr) : .illegalCommand ∉ rowErrors i := by
  cases i <;> simp [rowErrors]

section
variable {s t : State} {i : Instr}

/-- A command succeeds, or fails with an error of its row. -/
theorem succeeds_or_fails_of_exec (h : exec i s = .next t) :
    t.status.err = .none ∨ ∃ e ∈ rowErrors i, t = s.failed i e := by
  cases i with
  | nop =>
    obtain rfl := Host.Outcome.next.inj h
    exact .inl rfl
  | aesKeysetup keybytes bitlen =>
    rcases execAesKeysetup_cases h with ⟨-, rfl⟩ | ⟨-, rfl⟩
    · exact .inr ⟨.invalidKeyLength, by simp [rowErrors], rfl⟩
    · exact .inl rfl
  | aesEncrypt =>
    rcases execAesEncrypt_cases h with ⟨-, rfl⟩ | ⟨-, rfl⟩
    · exact .inr ⟨.uninitializedContext, by simp [rowErrors], rfl⟩
    · exact .inl rfl
  | aesDecrypt =>
    rcases execAesDecrypt_cases h with ⟨-, rfl⟩ | ⟨-, rfl⟩
    · exact .inr ⟨.uninitializedContext, by simp [rowErrors], rfl⟩
    · exact .inl rfl
  | aesRkread sched index =>
    rcases execAesRkread_cases h with ⟨-, rfl⟩ | ⟨-, -, rfl⟩ | ⟨-, -, -, rfl⟩
    · exact .inr ⟨.uninitializedContext, by simp [rowErrors], rfl⟩
    · exact .inr ⟨.argumentRange, by simp [rowErrors], rfl⟩
    · exact .inl rfl
  | shaStart =>
    obtain rfl := Host.Outcome.next.inj h
    exact .inl rfl
  | shaUpdate len =>
    rcases execShaUpdate_cases h with ⟨-, rfl⟩ | ⟨-, -, rfl⟩ | ⟨-, -, -, rfl⟩ | ⟨-, -, -, rfl⟩ | ⟨-, -, -, -, rfl⟩
    · exact .inr ⟨.uninitializedContext, by simp [rowErrors], rfl⟩
    · exact .inr ⟨.bufferLengthMismatch, by simp [rowErrors], rfl⟩
    · exact .inr ⟨.counterOverflow, by simp [rowErrors], rfl⟩
    · exact .inl rfl
    · exact .inl rfl
  | shaFinish =>
    rcases execShaFinish_cases h with ⟨-, rfl⟩ | ⟨-, rfl⟩
    · exact .inr ⟨.uninitializedContext, by simp [rowErrors], rfl⟩
    · exact .inl rfl
  | tblRead table index =>
    rcases execTblRead_cases h with ⟨-, rfl⟩ | ⟨-, rfl⟩
    · exact .inr ⟨.argumentRange, by simp [rowErrors], rfl⟩
    · exact .inl rfl

theorem err_mem_of_exec (h : exec i s = .next t) : t.status.err ∈ .none :: rowErrors i := by
  rcases succeeds_or_fails_of_exec h with herr | ⟨e, he, rfl⟩
  · rw [herr]
    exact List.mem_cons_self
  · rw [failed_err]
    exact List.mem_cons_of_mem _ he

theorem err_ne_illegalCommand_of_exec (h : exec i s = .next t) : t.status.err ≠ .illegalCommand := by
  intro herr
  have hmem := err_mem_of_exec h
  rw [herr, List.mem_cons] at hmem
  exact hmem.elim nofun (illegalCommand_not_mem_rowErrors i)

end

/-- Settles O24: the command does not succeed, so it ends in `State.failed`. -/
theorem failedCommandChangesOnlyStatus : Obligations.FailedCommandChangesOnlyStatus := by
  intro i s t h herr
  obtain ⟨e, -, rfl⟩ := (succeeds_or_fails_of_exec h).resolve_left herr
  refine ⟨fun hi => ?_, fun keybytes bitlen hi => ?_⟩
  · rw [failed_of_ne_keysetup s e hi]
    rfl
  · subst hi
    rfl

/-- Settles O25: a decoded command ends with an error of its row, and the decoder refuses exactly the illegal words. -/
theorem commandsRaiseOnlyTheirErrors : Obligations.CommandsRaiseOnlyTheirErrors := by
  refine ⟨fun i s t h => ?_, fun s t h => ?_⟩
  · have hmem := err_mem_of_exec h
    cases i <;> exact hmem
  · rw [← decoderRefusesExactlyIllegalWords]
    rcases complete_cases h with ⟨i, hdecode, hexec⟩ | ⟨hrefused, rfl⟩
    · exact iff_of_false (err_ne_illegalCommand_of_exec hexec) (by simp [hdecode])
    · exact iff_of_true rfl hrefused

/-! ### Where commands fail -/

section
variable {s : State}

theorem execAesRkread_of_unkeyed {sched index : Nat} (h : s.aes.nr = .unkeyed) :
    execAesRkread sched index s = .next (s.finish .uninitializedContext) :=
  if_pos h

theorem execAesRkread_of_outOfRange {sched index : Nat} (hkeyed : s.aes.nr ≠ .unkeyed)
    (hrange : sched > 1 ∨ index ≥ 4 * (s.aes.nr.num + 1)) :
    execAesRkread sched index s = .next (s.finish .argumentRange) := by
  rw [execAesRkread, if_neg hkeyed, raise_eq]
  by_cases hsched : sched > 1
  · exact if_pos hsched
  · rw [if_neg hsched]
    exact if_pos (hrange.resolve_left hsched)

theorem execTblRead_of_outOfRange {table index : Nat} (s : State)
    (h : table > 16 ∨ (table = 16 ∧ index > 9) ∨ (table < 16 ∧ index > 255)) :
    execTblRead table index s = .next (s.finish .argumentRange) := by
  rw [execTblRead, raise_eq]
  rcases h with hid | ⟨hid, hrcon⟩ | ⟨hid, hbyte⟩
  · exact if_pos hid
  · rw [if_neg (by omega)]
    exact if_pos ⟨hid, hrcon⟩
  · rw [if_neg (by omega), if_neg (by omega)]
    exact if_pos ⟨hid, hbyte⟩

end

/-- Settles O26, by the lemma for each refusal. -/
theorem errorsComeInTheirOrder : Obligations.ErrorsComeInTheirOrder := by
  refine ⟨fun s hs => ⟨(exec_aesEncrypt s).trans (cipherCommand_of_unkeyed _ hs),
      (exec_aesDecrypt s).trans (cipherCommand_of_unkeyed _ hs), fun _ _ => execAesRkread_of_unkeyed hs⟩,
    fun s sched index => execAesRkread_of_outOfRange, fun s hs => ?_, fun s len hs => ?_,
    fun s id i => execTblRead_of_outOfRange s⟩
  · have hstopped : s.sha.started = false := (not_started_iff s.sha).mpr hs
    exact ⟨execShaFinish_of_not_started hstopped, fun len => execShaUpdate_of_not_started len hstopped⟩
  · have hstarted : s.sha.started = true := s.sha.started_iff.mpr hs
    exact ⟨execShaUpdate_of_long hstarted, execShaUpdate_of_overflow hstarted⟩

/-- Settles O27. -/
theorem everyStepLeadsToANextState : Obligations.EveryStepLeadsToANextState := ⟨step_total, exec_total⟩

end Sys2Proof.Machine
end

section
/-! PROOFS. The interrupt output: what each slot does to it, and exactly when it rises and falls (O23). -/

namespace Sys2Proof.Machine

/-! ### Which write an access is -/

/-- Two register writes of the window are one event when they write the same word at the same offset. -/
theorem hostWr_inj {off off' : Nat} {v v' : Word} (hoff : off < 0x100) (hoff' : off' < 0x100) :
    hostWr off v = hostWr off' v' ↔ off = off' ∧ v = v' := by
  have hbits : BitVec.ofNat 8 off = BitVec.ofNat 8 off' ↔ off = off' := by
    rw [← BitVec.toNat_inj, BitVec.toNat_ofNat, BitVec.toNat_ofNat, Nat.mod_eq_of_lt hoff, Nat.mod_eq_of_lt hoff']
  simp [hostWr, hbits, and_comm]

/-! ### IRQ after a slot -/

/-- IRQ after a write of `v` at offset `off`: a CMD write lowers it unless it is dropped, a STATUS write lowers it with a 1 in
bit 1, and a CTRL write sets IE. -/
def irqAfterWrite (s : State) (off : Nat) (v : Word) : Bool :=
  if off = 0x00 then s.irq && s.busy
  else if off = 0x04 then s.irq && !v.getLsbD 1
  else if off = 0x08 then v.getLsbD 0 && s.status.done
  else s.irq

theorem irqAfterWrite_of_other (s : State) {off : Nat} (v : Word) (h0 : off ≠ 0x00) (h4 : off ≠ 0x04) (h8 : off ≠ 0x08) :
    irqAfterWrite s off v = s.irq := by
  rw [irqAfterWrite, if_neg h0, if_neg h4, if_neg h8]

theorem irq_writeReg (s : State) (off : Nat) (v : Word) : (writeReg s off v).irq = irqAfterWrite s off v := by
  rcases writeReg_cases s off v with ⟨rfl, hb, hw⟩ | ⟨rfl, hb, hw⟩ | ⟨rfl, hw⟩ | ⟨rfl, hw⟩ | ⟨hoff, hw⟩ | ⟨hoff, hw⟩ |
    ⟨hoff, hw⟩ | ⟨h0, h4, h8, -, hw⟩ <;> rw [hw]
  · simp [irqAfterWrite, State.irq, hb]
  · simp [irqAfterWrite, State.irq, hb]
  · simp [irqAfterWrite, State.irq, Bool.and_assoc]
  · simp [irqAfterWrite, State.irq]
  · exact (irqAfterWrite_of_other s v (by omega) (by omega) (by omega)).symm
  · exact (irqAfterWrite_of_other s v (by omega) (by omega) (by omega)).symm
  · exact (irqAfterWrite_of_other s v (by omega) (by omega) (by omega)).symm
  · exact (irqAfterWrite_of_other s v h0 h4 h8).symm

/-- An access is a register write of the window, or leaves IRQ. -/
theorem irq_access_cases (s : State) (a : BusAccess) :
    (∃ off v, off < 0x100 ∧ .access a = hostWr off v ∧ (s.access a).irq = irqAfterWrite s off v) ∨
      ((∀ off v, off % 4 = 0 → off < 0x100 → .access a ≠ hostWr off v) ∧ (s.access a).irq = s.irq) := by
  rcases access_cases s a with ⟨hserved, ha⟩ | ⟨-, hop, ha⟩ | ⟨v, hserved, hop, ha⟩ <;> rw [ha]
  · refine .inr ⟨fun off v halign hwin hwrite => ?_, rfl⟩
    obtain rfl := PortEvent.access.inj hwrite
    simp [BusAccess.served, Nat.mod_eq_of_lt hwin, halign] at hserved
  · refine .inr ⟨fun off v _ _ hwrite => ?_, rfl⟩
    obtain rfl := PortEvent.access.inj hwrite
    cases hop
  · exact .inl ⟨a.off.toNat, v, a.off.isLt, access_eq_hostWr hserved hop, irq_writeReg s _ v⟩

/-- A slot of the core completes a command, and IRQ is then IE, or leaves BUSY and IRQ. -/
theorem irq_internalStep_cases {s t : State} (h : internalStep s = .next t) :
    (s.busy = true ∧ t.busy = false ∧ t.irq = s.regs.ie) ∨ (t.busy = s.busy ∧ t.irq = s.irq) := by
  rcases internalStep_cases h with ⟨-, rfl⟩ | ⟨-, hb, hc⟩ | ⟨-, -, rfl⟩
  · exact .inr ⟨rfl, rfl⟩
  · have hend := Completed.of_complete hc
    exact .inl ⟨hb, hend.busy, by rw [State.irq, hend.done, hend.ie, Bool.and_true]⟩
  · exact .inr ⟨rfl, rfl⟩

/-! ### When one slot raises or lowers it -/

section
variable {s : State}

theorem irq_access_rises_iff (a : BusAccess) (hirq : s.irq = false) :
    (s.access a).irq = true ↔ s.status.done = true ∧ ∃ v, .access a = hostWr 0x08 v ∧ v.getLsbD 0 = true := by
  rcases irq_access_cases s a with ⟨off, v, hoff, ha, hafter⟩ | ⟨hno, hafter⟩ <;> rw [hafter]
  · simp only [ha, hostWr_inj hoff (show 0x08 < 0x100 by decide)]
    by_cases h8 : off = 0x08
    · simp [irqAfterWrite, h8, and_comm]
    · simp [irqAfterWrite, h8, hirq]
  · simp [hirq, hno 0x08 _ rfl (by decide)]

theorem irq_access_falls_iff (a : BusAccess) (hirq : s.irq = true) :
    (s.access a).irq = false ↔
      (∃ v, .access a = hostWr 0x04 v ∧ v.getLsbD 1 = true) ∨ (s.busy = false ∧ ∃ c, .access a = hostWr 0x00 c) ∨
        ∃ v, .access a = hostWr 0x08 v ∧ v.getLsbD 0 = false := by
  have hdone : s.status.done = true := (Bool.and_eq_true_iff.mp hirq).2
  rcases irq_access_cases s a with ⟨off, v, hoff, ha, hafter⟩ | ⟨hno, hafter⟩ <;> rw [hafter]
  · simp only [ha, hostWr_inj hoff (show 0x00 < 0x100 by decide), hostWr_inj hoff (show 0x04 < 0x100 by decide),
      hostWr_inj hoff (show 0x08 < 0x100 by decide)]
    by_cases h0 : off = 0x00
    · simp [irqAfterWrite, h0, hirq]
    by_cases h4 : off = 0x04
    · simp [irqAfterWrite, h4, hirq]
    by_cases h8 : off = 0x08
    · simp [irqAfterWrite, h8, hdone]
    · simp [irqAfterWrite_of_other s v h0 h4 h8, h0, h4, h8, hirq]
  · simp [hirq, hno 0x00 _ rfl (by decide), hno 0x04 _ rfl (by decide), hno 0x08 _ rfl (by decide)]

end

/-! ### The interrupt -/

/-- A step as IRQ sees it: a completion, another slot of the core, a reset, or an access. -/
theorem irq_step_cases {s t : State} (h : step s = .next t) :
    (s.coreSlot ∧ s.busy = true ∧ t.busy = false ∧ t.irq = s.regs.ie) ∨
      (s.coreSlot ∧ t.busy = s.busy ∧ t.irq = s.irq) ∨
      (∃ es, s.inputs = .reset :: es ∧ t.irq = false) ∨
      (∃ a es, s.inputs = .access a :: es ∧ t = (s.withInputs es).access a) := by
  rcases step_cases h with ⟨hs, hi⟩ | ⟨es, hs, hi⟩ | ⟨es, hs, rfl⟩ | haccess
  · exact (irq_internalStep_cases hi).imp (⟨.inl hs, ·⟩) (.inl ⟨.inl hs, ·⟩)
  · have hslot : s.coreSlot := .inr (by rw [hs, List.head?_cons])
    exact (irq_internalStep_cases hi).imp (⟨hslot, ·⟩) (.inl ⟨hslot, ·⟩)
  · exact .inr (.inr (.inl ⟨es, hs, rfl⟩))
  · exact .inr (.inr (.inr haccess))

section
variable {s t : State}

theorem inputs_ne_hostWr_of_coreSlot (hslot : s.coreSlot) (off : Nat) (v : Word) (es : List PortEvent) :
    s.inputs ≠ hostWr off v :: es :=
  fun hs => not_coreSlot_of_access hs hslot

theorem head_ne_reset_of_coreSlot (hslot : s.coreSlot) : s.inputs.head? ≠ some .reset := by
  rcases hslot with hs | hs <;> simp [hs]

theorem inputs_ne_reset_of_coreSlot (hslot : s.coreSlot) (es : List PortEvent) : s.inputs ≠ .reset :: es :=
  fun hs => head_ne_reset_of_coreSlot hslot (by rw [hs, List.head?_cons])

theorem irq_rises_iff (h : step s = .next t) (hirq : s.irq = false) :
    t.irq = true ↔
      (s.regs.ie = true ∧ s.busy = true ∧ t.busy = false ∧ s.inputs.head? ≠ some .reset) ∨
        (s.status.done = true ∧ ∃ v es, s.inputs = hostWr 0x08 v :: es ∧ v.getLsbD 0 = true) := by
  rcases irq_step_cases h with ⟨hslot, hb, hb', hirq'⟩ | ⟨hslot, hkept, hirq'⟩ | ⟨es, hs, hirq'⟩ | ⟨a, es, hs, rfl⟩
  · simp [hirq', hb, hb', head_ne_reset_of_coreSlot hslot, inputs_ne_hostWr_of_coreSlot hslot]
  · rw [or_iff_right fun ⟨_, hb, hb', _⟩ => absurd ((hkept.trans hb).symm.trans hb') (by decide)]
    simp [hirq', hirq, inputs_ne_hostWr_of_coreSlot hslot]
  · simp [hirq', hs, hostWr]
  · have hheld (hb : s.busy = true) : ((s.withInputs es).access a).busy = true := (Held.of_access hb hs).busy
    rw [or_iff_right fun ⟨_, hb, hb', _⟩ => absurd ((hheld hb).symm.trans hb') (by decide),
      irq_access_rises_iff a (by exact hirq)]
    simp [hs]

theorem irq_falls_iff (h : step s = .next t) (hirq : s.irq = true) :
    t.irq = false ↔
      (∃ v es, s.inputs = hostWr 0x04 v :: es ∧ v.getLsbD 1 = true) ∨
        (s.busy = false ∧ ∃ c es, s.inputs = hostWr 0x00 c :: es) ∨
        (∃ v es, s.inputs = hostWr 0x08 v :: es ∧ v.getLsbD 0 = false) ∨
        (∃ es, s.inputs = .reset :: es) := by
  rcases irq_step_cases h with ⟨hslot, -, -, hirq'⟩ | ⟨hslot, -, hirq'⟩ | ⟨es, hs, hirq'⟩ | ⟨a, es, hs, rfl⟩
  · have hie : s.regs.ie = true := (Bool.and_eq_true_iff.mp hirq).1
    simp [hirq', hie, inputs_ne_hostWr_of_coreSlot hslot, inputs_ne_reset_of_coreSlot hslot]
  · simp [hirq', hirq, inputs_ne_hostWr_of_coreSlot hslot, inputs_ne_reset_of_coreSlot hslot]
  · simp [hirq', hs]
  · rw [irq_access_falls_iff a (by exact hirq)]
    simp [hs]

end

/-- Settles O23: the bits of CTRL and STATUS that IRQ is made of, and what each slot does to it. -/
theorem interruptRisesAndFallsAsListed : Obligations.InterruptRisesAndFallsAsListed := by
  refine ⟨fun s => ?_, fun s t h => ⟨irq_rises_iff h, irq_falls_iff h⟩⟩
  have hie : (readReg s 0x08).getLsbD 0 = s.regs.ie := ctrlWord_ie s
  have hdone : (readReg s 0x04).getLsbD 1 = s.status.done := statusWord_done s
  rw [hie, hdone, State.irq, Bool.and_eq_true_iff]

end Sys2Proof.Machine
end

section
/-! PROOFS. Reset and hazards: two CMD writes in a row (O15), the reset values (O55), and a host that keeps its duties (O59). -/

namespace Sys2Proof.Machine

/-! ### Two CMD writes in a row -/

/-- A core slot between the two writes completes the first command, so that the second finds BUSY at 0. -/
theorem step_idle_completes {s : State} {es : List PortEvent} (hr : s.tblReady = true) (hb : s.busy = true)
    (hs : s.inputs = .idle :: es) : ∃ t, step s = .next t ∧ Completed (s.withInputs es) t := by
  obtain ⟨t, ht⟩ := complete_total (s.withInputs es)
  have hstep : step s = .next t := by
    rw [step_idle hs, internalStep_complete (by exact hr) (by exact hb), ht]
  exact ⟨t, hstep, .of_complete ht⟩

/-- Settles O15: the first write is accepted; the second is dropped at once after it, and accepted after a slot of the core. -/
theorem backToBackCommandsHaveBothOutcomes : Obligations.BackToBackCommandsHaveBothOutcomes := by
  intro s c d es hb hr
  refine ⟨fun hs => ?_, fun hs => ?_⟩
  · have hdropped := cmdWriteWhileBusyIsDropped.1 (((s.withInputs (hostWr 0x00 d :: es)).accept c).respond .ack) d es rfl rfl
    rw [runSteps_succ 1 (step_accept hb hs), runSteps_succ 0 hdropped]
    exact ⟨_, rfl, rfl, rfl, rfl⟩
  · have haccept := step_accept hb hs
    obtain ⟨t, ht, hend⟩ := step_idle_completes
      (s := ((s.withInputs (.idle :: hostWr 0x00 d :: es)).accept c).respond .ack) hr rfl rfl
    rw [runSteps_succ 2 haccept, runSteps_succ 1 ht, runSteps_succ 0 (step_accept hend.busy hend.inputs)]
    exact ⟨_, rfl, rfl, rfl, hend.overrun⟩

/-! ### The reset values -/

/-- After reset every register but ID reads 0. -/
theorem readReg_resetTo (es : List PortEvent) (off : Nat) :
    readReg (State.resetTo es) off = if off = 0x0C then 0x41455343 else 0 := by
  have hstatus : (State.resetTo es).statusWord = 0 := show State.reset.statusWord = 0 by decide
  have hctrl : (State.resetTo es).ctrlWord = 0 := show State.reset.ctrlWord = 0 by decide
  have hregs : (State.resetTo es).regs = .reset := rfl
  unfold readReg
  rw [hstatus, hctrl, hregs]
  by_cases hid : off = 0x0C
  · simp [hid, Config.idValue]
  · simp only [hid, HostRegs.reset, wordAt_replicate, if_false, ite_self]

/-- Settles O55: both are `State.resetTo`, with no event to come and with the host's later events. -/
theorem resetGivesTheResetValues : Obligations.ResetGivesTheResetValues := by
  unfold Obligations.ResetGivesTheResetValues
  intro isReset
  have hreset (es : List PortEvent) : isReset (State.resetTo es) :=
    ⟨fun off _ _ => readReg_resetTo es off, rfl, rfl, rfl, rfl, rfl, rfl,
      fun i => ⟨wordAt_replicate _ i, wordAt_replicate _ i⟩, fun i => wordAt_replicate _ i, rfl, rfl, rfl, rfl, rfl⟩
  exact ⟨hreset [], fun _ es hs => ⟨_, step_reset hs, hreset es, rfl⟩⟩

/-! ### A host that keeps its duties -/

theorem internalStep_response {s t : State} (h : internalStep s = .next t) : t.response = s.response := by
  rcases internalStep_cases h with ⟨-, rfl⟩ | ⟨-, -, hc⟩ | ⟨-, -, rfl⟩
  · rfl
  · exact (Completed.of_complete hc).response
  · rfl

/-- A core slot drops no command and answers no access. -/
theorem clean_of_internalStep {s t : State} (hclean : s.clean) (h : internalStep s = .next t) : t.clean :=
  ⟨(internalStep_overrun h).trans hclean.1, internalStep_response h ▸ hclean.2⟩

/-- Only a CMD write while a command is pending raises OVERRUN. -/
theorem writeReg_overrun_low {s : State} {off : Nat} {v : Word} (hs : s.status.overrun = false)
    (hcmd : off = 0x00 → s.busy = false) : (writeReg s off v).status.overrun = false := by
  rcases writeReg_cases s off v with ⟨hoff, hb, -⟩ | ⟨-, -, hw⟩ | ⟨-, hw⟩ | ⟨-, hw⟩ | ⟨-, hw⟩ | ⟨-, hw⟩ | ⟨-, hw⟩ |
    ⟨-, -, -, -, hw⟩
  case inl => exact absurd (hb.symm.trans (hcmd hoff)) (by decide)
  all_goals simp [hw, hs]

/-- A served access that is no CMD write to a busy core keeps the host's record clean. -/
theorem clean_of_access {s : State} {a : BusAccess} (hs : s.status.overrun = false) (hserved : a.served = true)
    (hcmd : ∀ c, a.op = .write c → a.off = 0 → s.busy = false) : (s.access a).clean := by
  rcases access_cases s a with ⟨hrefused, -⟩ | ⟨-, -, ha⟩ | ⟨v, -, hop, ha⟩
  · exact absurd (hserved.symm.trans hrefused) (by decide)
  · exact ha ▸ ⟨hs, nofun⟩
  · exact ha ▸ ⟨writeReg_overrun_low hs fun hoff => hcmd v hop (BitVec.eq_of_toNat_eq hoff), nofun⟩

/-- Settles O59, by the slot the step takes. -/
theorem dutifulHostSeesNoOverrunOrBusError : Obligations.DutifulHostSeesNoOverrunOrBusError := by
  intro s t hclean hdutiful h
  rcases step_cases h with ⟨-, hi⟩ | ⟨es, -, hi⟩ | ⟨es, -, rfl⟩ | ⟨a, es, hs, rfl⟩
  · exact clean_of_internalStep hclean hi
  · exact clean_of_internalStep (s := s.withInputs es) hclean hi
  · exact ⟨rfl, nofun⟩
  · obtain ⟨hserved, hcmd⟩ := hdutiful a (by rw [hs, List.head?_cons])
    exact clean_of_access hclean.1 hserved hcmd

end Sys2Proof.Machine
end

section
/-! PROOFS. The words written out in the spec (O4). -/

namespace Sys2Proof

theorem toOption_decode_encode {i : Instr} (hi : wellFormed i = true) : (decode (encode i)).toOption = some i := by
  rw [encodedCommandDecodesBack i hi]
  rfl

theorem toOption_decode_of_illegalWord {c : Word} (hc : Machine.illegalWord c) : (decode c).toOption = none := by
  obtain ⟨e, he⟩ := (decoderRefusesExactlyIllegalWords c).mpr hc
  rw [he]
  rfl

/-- Words that are, one by one, the encodings of well-formed commands decode to them. -/
theorem map_decode_of_encode {cs : List Word} {is : List Instr} (hwf : ∀ i ∈ is, wellFormed i = true)
    (hcs : is.map encode = cs) : cs.map (fun c => (decode c).toOption) = is.map some := by
  rw [← hcs, List.map_map]
  exact List.map_congr_left fun i hi => toOption_decode_encode (hwf i hi)

/-- Settles O4: the legal words are the encodings of the commands listed, and the other six are illegal words. -/
theorem workedWordsDecode : Obligations.WorkedWordsDecode := by
  refine ⟨?_, List.map_eq_replicate_iff.mpr fun c hc => toOption_decode_of_illegalWord ?_⟩
  · exact map_decode_of_encode
      (is := [.nop, .aesKeysetup 16 128, .aesEncrypt, .aesDecrypt, .aesRkread 1 40, .shaStart, .shaUpdate 3, .shaFinish,
        .tblRead 2 0x53])
      (by decide) (by decide)
  · fin_cases hc <;> decide

end Sys2Proof
end

section
/-! PROOFS. The published AES and SHA-256 vectors (O54): a finite computation each, but for the decryption, which undoes the
encryption of the same vector. -/

namespace Sys2Proof.Machine

/-- The decryption schedule derived from an encryption schedule undoes its cipher, whatever the words of that schedule. -/
theorem decryptBlock_deriveDecryptionKeys {n : Nat} (erk drk : RkStore) (hn : 4 * (n + 1) ≤ 60) (p : Block) :
    decryptBlock n (deriveDecryptionKeys n erk drk) (encryptBlock n erk p) = p := by
  rw [decryptBlock_eq_invCipher fun _ hi => wordAt_deriveDecryptionKeys erk drk hn hi, encryptBlock_eq_cipher,
    Fips197.invCipher_cipher]

/-- Settles O54: the encryption, the key word and the digests are computed, and the decryption follows from the encryption. -/
theorem publishedVectors : Obligations.PublishedVectors := by
  unfold Obligations.PublishedVectors
  intro expand e
  have hencrypt : encryptBlock 10 e #v[0x00112233, 0x44556677, 0x8899AABB, 0xCCDDEEFF] =
      #v[0x69C4E0D8, 0x6A7B0430, 0xD8CDB780, 0x70B4C55A] := by
    subst e expand
    decide +kernel
  refine ⟨hencrypt, ?_, ?_, ?_, ?_⟩
  · rw [← hencrypt]
    exact decryptBlock_deriveDecryptionKeys e _ (by decide) _
  · subst e expand
    decide +kernel
  · decide +kernel
  · decide +kernel

end Sys2Proof.Machine
end
